-- ==== Sys2Proof/Word.lean ====
section
/-! DEFINITION. The value types of the block (00_scope.md R9, R310): unsigned bytes, 16-bit words, bus addresses,
and exact rational time. -/

namespace Sys2Proof

/-- `u8` (R9): a register, a bus data byte, a FIFO entry. -/
abbrev Byte := BitVec 8

/-- `u16` (R9): the counter/timer reload value and a 16-bit bus datum. -/
abbrev Half := BitVec 16

/-- `u24` (R9, R70): a bus address after the 24-bit mask. -/
abbrev BusAddr := BitVec 24

/-- A bus address as the CPU core presents it, before rule R71 reduces it to 24 bits. The spec gives it no width;
32 bits is the model's choice (notes/assumptions/2.md). -/
abbrev CpuAddr := BitVec 32

/-- Time in milliseconds, an exact rational (R310). That no time is negative is part of `State.Inv`. -/
abbrev Time := Rat

end Sys2Proof
end

