-- ==== Sys2Proof/Syntax.lean ====
section
/-! DEFINITION. The transactions of the block: `Instr` has one constructor for each row of spec/opcode_table.json
(30_encoding.md R127). The block has no instruction set (R30); what it executes is one transaction of one of the
agents of R5 at a time. -/

namespace Sys2Proof

/-- The two UART channels (44_uart_channel.md). -/
inductive ChanId where
  | a
  | b
deriving DecidableEq, Repr

/-- The identity of an interrupt source (10_state.md R35): the DUART, or one of the extra sources. The spec says
the set is finite; the model numbers the extra sources by a byte (notes/assumptions/8.md). -/
inductive SourceId where
  | duart
  | extra (k : Byte)
deriving DecidableEq, Repr

/-- A bus transaction as the CPU core's own reset sequence issues it (70_reset_and_hazards.md R384). -/
inductive BusCall where
  | read8 (addr : CpuAddr)
  | write8 (addr : CpuAddr) (v : Byte)
  | read16 (addr : CpuAddr)
  | write16 (addr : CpuAddr) (v : Half)
deriving DecidableEq, Repr

/-- One constructor per row of spec/opcode_table.json. A DUART access is addressed to the chip itself (access code
`d rrrr`, R100); a bus call goes through the address decoder. -/
inductive Instr where
  -- DUART register reads (42_duart_read.md)
  | duartRMra
  | duartRSra
  | duartRMisr
  | duartRRhra
  | duartRIpcr
  | duartRIsr
  | duartRCtu
  | duartRCtl
  | duartRMrb
  | duartRSrb
  | duartRNoneA
  | duartRRhrb
  | duartRIvr
  | duartRIp
  | duartRStart
  | duartRStop
  -- DUART register writes (43_duart_write.md)
  | duartWMra (v : Byte)
  | duartWCsra (v : Byte)
  | duartWCra (v : Byte)
  | duartWThra (v : Byte)
  | duartWAcr (v : Byte)
  | duartWImr (v : Byte)
  | duartWCtu (v : Byte)
  | duartWCtl (v : Byte)
  | duartWMrb (v : Byte)
  | duartWCsrb (v : Byte)
  | duartWCrb (v : Byte)
  | duartWThrb (v : Byte)
  | duartWIvr (v : Byte)
  | duartWOpcr (v : Byte)
  | duartWSopr (v : Byte)
  | duartWRopr (v : Byte)
  /-- The wake command (R247): command register of channel `c`, data `0xD0 | lo`. -/
  | duartWWake (c : ChanId) (lo : BitVec 4)
  -- bus calls (41_bus.md)
  | busRead8 (addr : CpuAddr)
  | busWrite8 (addr : CpuAddr) (v : Byte)
  | busRead16 (addr : CpuAddr)
  | busWrite16 (addr : CpuAddr) (v : Half)
  | busIackVector (level : BitVec 3)
  -- interrupt controller calls (40_controller.md)
  | icSourceAdd (src : SourceId) (level : Int)
  | icSourceRemoveLevel (level : Int)
  | icSourceRemoveSrc (src : SourceId)
  | icPoll
  | icSourceEnableLevel (level : Int)
  | icSourceEnableSrc (src : SourceId)
  | icSourceDisableLevel (level : Int)
  | icSourceDisableSrc (src : SourceId)
  | icReadVector (level : Int)
  | icReset
  -- host steps (R283, R305, R380)
  | hostReceive (c : ChanId) (b : Byte)
  | hostSetInputPort (v : Byte)
  | boardReset
deriving DecidableEq, Repr

end Sys2Proof
end

