-- ==== Sys2Proof/Config.lean ====
section
/-! DEFINITION. The parameters of the block (00_scope.md R7), the constraints on them (R8), its fixed constants, and
the free values: opaque constants that nothing in Lean can evaluate. -/

namespace Sys2Proof

/-! ## Constants the source fixes (R7) -/

/-- Bytes of RAM, 0x000000..0x0FFFFF (R7, R31). -/
def Config.ramSize : Nat := 0x100000

/-- `IO_END`, the top of the 24-bit space (R7). -/
def Config.ioEnd : Nat := 0xFFFFFF

/-- `SENTINEL_VECTOR` (R7): the uninitialised-vector value. -/
def Config.sentinelVector : Byte := 0x0F

/-- `FIFO_CAP` (R7): entries of a receive FIFO. -/
def Config.fifoCap : Nat := 255

/-- `FFULL_THRESHOLD` (R7): SR bit 1 is set when the FIFO is longer than this. -/
def Config.ffullThreshold : Nat := 2

/-- `CRYSTAL_HZ` (R7). -/
def Config.crystalHz : Rat := 3686400

/-- What a RAM or ROM byte that the memory's list does not name reads as. `RAM_INIT` and `ROM_IMAGE` are "any bytes"
(R31, R32): a list names every byte that differs from this one, so every content is some list, and which one
State.reset has is DESIGN CHOICE (notes/assumptions/6.md). -/
def Config.unlistedByte : Byte := 0x00

/-! ## Parameters -/

/-- `IO_REG_ALIAS` (R7, R76). -/
inductive IoRegAlias where
  | inert
  | mask4
deriving DecidableEq, Repr

/-- `INTERVAL_QUANT` (R7, R314): exact, or the rounding of some host (`Config.hostRound`). -/
inductive IntervalQuant where
  | exact
  | host
deriving DecidableEq, Repr

/-- `VECTOR_MODE` (R7, R347): the CPU core's way of finding an interrupt vector. -/
inductive VectorMode where
  | external
  | autovector
deriving DecidableEq, Repr

/-- What an output-port pin is wired to (R249). -/
inductive PinRole where
  | spiClock
  | spiDataOut
  | spiSelect
  | led (k : Nat)
deriving DecidableEq, Repr

/-- The parameters of rule R7 that are not fixed by the source, each with the default the spec gives. They are part
of the state and no transaction changes them, so that a statement about every state holds for every choice. -/
structure Params where
  /-- `ROM_BASE`. -/
  romBase : Nat := 0xE00000
  /-- `ROM_SIZE`. -/
  romSize : Nat := 0x100000
  /-- `IO_BASE`. -/
  ioBase : Nat := 0xF00000
  /-- `DUART_LEVEL`. -/
  duartLevel : Nat := 4
  /-- `EXTRA_SOURCES`: each source bound at construction, with its level. -/
  extraSources : List (Byte × Nat) := []
  ioRegAlias : IoRegAlias := .inert
  standbyInit : Bool := false
  /-- `IP_INIT`, six significant bits (R42). -/
  ipInit : BitVec 6 := 0
  cmdCEntersStandby : Bool := false
  timerAckOnAdvance : Bool := true
  intervalQuant : IntervalQuant := .exact
  /-- OPEN in the spec; DESIGN CHOICE of default (notes/assumptions/9.md). -/
  vectorMode : VectorMode := .external
  /-- `SPI_PINS`, OPEN in the spec; no pin assigned by default (notes/assumptions/9.md). -/
  spiPins : List (PinRole × Fin 8) := []
  /-- The bus transactions of the CPU core's own reset sequence (R384), which is outside the block: by default the
  68000's, the two long words at 0 and 4 (notes/assumptions/5.md). -/
  cpuResetSeq : List BusCall := [.read16 0, .read16 2, .read16 4, .read16 6]
deriving DecidableEq, Repr

/-- The levels at which construction binds a source (R36). -/
def Params.boundLevels (p : Params) : List Nat :=
  p.duartLevel :: p.extraSources.map (fun e => e.2)

/-- The constraints of rule R8: regions in order and disjoint, the I/O window ending at 0xFFFFFF, every level in
1..7 and no level shared. A source is bound at one level only (R148). -/
def Params.valid (p : Params) : Bool :=
  decide (Config.ramSize - 1 < p.romBase) &&
  decide (p.romBase + p.romSize - 1 < p.ioBase) &&
  decide (p.ioBase ≤ Config.ioEnd) &&
  p.boundLevels.all (fun l => decide (1 ≤ l) && decide (l ≤ 7)) &&
  decide (p.boundLevels.Nodup) &&
  decide ((p.extraSources.map (fun e => e.1)).Nodup)

/-! ## Free values -/

/-- The host clock's reading at the n-th free draw (R311), before it is kept from falling below an earlier reading. -/
opaque Config.freeTime : Nat → Time

/-- The n-th free Bool: an enable flag whose pair of command bits is both set (R275), an extra source's poll answer
(R343). -/
opaque Config.freeBool : Nat → Bool

/-- The n-th free byte: an extra source's vector (R343). -/
opaque Config.freeByte : Nat → Byte

/-- The rounding a host applies to the timer interval under `INTERVAL_QUANT` (R314). -/
opaque Config.hostRound : Time → Time

end Sys2Proof
end

