-- ==== Sys2Proof/WellFormed.lean ====
section
/-! DEFINITION. The side conditions of a transaction that its type does not carry. -/

namespace Sys2Proof

/-- A level operand the transaction frame can carry: a signed 32-bit integer. The rules take "any integer"
(40_controller.md R141, R146) and the meanings do too; only the frame is bounded (notes/assumptions/2.md). -/
def levelFits (level : Int) : Bool :=
  decide (-2147483648 ≤ level) && decide (level ≤ 2147483647)

/-- Every operand fits the frame of its transaction. -/
def Instr.wf : Instr → Bool
  | .icSourceAdd _ level => levelFits level
  | .icSourceRemoveLevel level => levelFits level
  | .icSourceEnableLevel level => levelFits level
  | .icSourceDisableLevel level => levelFits level
  | .icReadVector level => levelFits level
  | .duartRMra | .duartRSra | .duartRMisr | .duartRRhra | .duartRIpcr | .duartRIsr | .duartRCtu | .duartRCtl
  | .duartRMrb | .duartRSrb | .duartRNoneA | .duartRRhrb | .duartRIvr | .duartRIp | .duartRStart | .duartRStop => true
  | .duartWMra _ | .duartWCsra _ | .duartWCra _ | .duartWThra _ | .duartWAcr _ | .duartWImr _ | .duartWCtu _
  | .duartWCtl _ | .duartWMrb _ | .duartWCsrb _ | .duartWCrb _ | .duartWThrb _ | .duartWIvr _ | .duartWOpcr _
  | .duartWSopr _ | .duartWRopr _ | .duartWWake _ _ => true
  | .busRead8 _ | .busWrite8 _ _ | .busRead16 _ | .busWrite16 _ _ | .busIackVector _ => true
  | .icSourceRemoveSrc _ | .icPoll | .icSourceEnableSrc _ | .icSourceDisableSrc _ | .icReset => true
  | .hostReceive _ _ | .hostSetInputPort _ | .boardReset => true

end Sys2Proof
end

