-- ==== Sys2Proof/Decode.lean ====
section
/-! DEFINITION. The frame of a transaction, its decoder and its encoder.

The spec numbers only the DUART accesses: the 5-bit access code `d rrrr` (30_encoding.md R100) and the 13-bit value
`code << 8 | data` of the wake command (R127); a call is "chosen by its name". A frame is the model's own way of
presenting a transaction to the block (notes/assumptions/1.md): a list of bytes, first byte at bits 7..0 of the
table's number.

  byte 0         following bytes
  0x00..0x0F     none: read of register r
  0x10..0x1F     data: write of register r
  0xD0..0xDF     code (0x12 or 0x1A): the wake command, data byte first
  0x20..0x24     bus calls: address (4 bytes), data (1 or 2 bytes); level (1 byte)
  0x30..0x39     controller calls: source (2 bytes), level (4 bytes, two's complement)
  0x40..0x42     host steps: channel (1 byte), data (1 byte)

Every multi-byte operand has its least significant byte first. Zero bytes may follow a frame. -/

namespace Sys2Proof

/-- One transaction as presented to the block. -/
abbrev Frame := List Byte

/-- Why a frame is no transaction of the block. -/
inductive Reject where
  /-- The frame has no byte. -/
  | empty
  /-- The frame ends before its operands do. -/
  | truncated
  /-- The first byte names no operation. -/
  | unknownCall (tag : Byte)
  /-- A wake data byte followed by a byte that is neither 0x12 nor 0x1A (R127). -/
  | badWakeCode
  /-- A source that is neither the DUART nor an extra source. -/
  | badSource
  /-- A channel that is neither A nor B. -/
  | badChannel
  /-- An interrupt-acknowledge level outside its three bits. -/
  | badLevel
  /-- A byte other than zero after the frame's operands. -/
  | trailingData
deriving DecidableEq, Repr

/-! ## Operands of a frame -/

/-- A 16-bit operand, least significant byte first. -/
def join2 (b0 b1 : Byte) : Half := b1 ++ b0

/-- A 32-bit operand, least significant byte first. -/
def join4 (b0 b1 b2 b3 : Byte) : BitVec 32 := (b3 ++ b2) ++ (b1 ++ b0)

/-- Byte `k` of a value, byte 0 the least significant. -/
def byteOf {n : Nat} (v : BitVec n) (k : Nat) : Byte := v.extractLsb' (8 * k) 8

/-- The bytes of a 32-bit operand. -/
def split4 (v : BitVec 32) : List Byte := [byteOf v 0, byteOf v 1, byteOf v 2, byteOf v 3]

/-- The bytes of a level operand. -/
def levelBytes (level : Int) : List Byte := split4 (BitVec.ofInt 32 level)

/-- The level a frame carries. -/
def levelOf (b0 b1 b2 b3 : Byte) : Int := (join4 b0 b1 b2 b3).toInt

/-- The two bytes of a source: its kind (0 the DUART, 1 an extra source) and its number. -/
def sourceBytes : SourceId → List Byte
  | .duart => [0, 0]
  | .extra k => [1, k]

/-- The source two bytes name. -/
def sourceOf (kind k : Byte) : Except Reject SourceId :=
  if kind = 0 then (if k = 0 then .ok .duart else .error .badSource)
  else if kind = 1 then .ok (.extra k)
  else .error .badSource

/-- The channel number of R281: A is 0, B is 1. -/
def chanByte : ChanId → Byte
  | .a => 0
  | .b => 1

/-- The channel a byte names. -/
def chanOf (b : Byte) : Except Reject ChanId :=
  if b = 0 then .ok .a else if b = 1 then .ok .b else .error .badChannel

/-! ## DUART access codes -/

/-- The read of relative register `r` (R102). -/
def readInstr (r : BitVec 4) : Instr :=
  match r.toNat with
  | 0x0 => .duartRMra
  | 0x1 => .duartRSra
  | 0x2 => .duartRMisr
  | 0x3 => .duartRRhra
  | 0x4 => .duartRIpcr
  | 0x5 => .duartRIsr
  | 0x6 => .duartRCtu
  | 0x7 => .duartRCtl
  | 0x8 => .duartRMrb
  | 0x9 => .duartRSrb
  | 0xA => .duartRNoneA
  | 0xB => .duartRRhrb
  | 0xC => .duartRIvr
  | 0xD => .duartRIp
  | 0xE => .duartRStart
  | _ => .duartRStop

/-- The write of `v` to relative register `r` (R103). -/
def writeInstr (r : BitVec 4) (v : Byte) : Instr :=
  match r.toNat with
  | 0x0 => .duartWMra v
  | 0x1 => .duartWCsra v
  | 0x2 => .duartWCra v
  | 0x3 => .duartWThra v
  | 0x4 => .duartWAcr v
  | 0x5 => .duartWImr v
  | 0x6 => .duartWCtu v
  | 0x7 => .duartWCtl v
  | 0x8 => .duartWMrb v
  | 0x9 => .duartWCsrb v
  | 0xA => .duartWCrb v
  | 0xB => .duartWThrb v
  | 0xC => .duartWIvr v
  | 0xD => .duartWOpcr v
  | 0xE => .duartWSopr v
  | _ => .duartWRopr v

/-- What a decoder reads: a transaction and the bytes after it, or the reason there is none. -/
abbrev Decoded := Except Reject (Instr × List Byte)

/-- A frame whose first byte is an access code (R100): bit 4 the direction, bits 3..0 the register. -/
def decodeAccess (code : Byte) (rest : List Byte) : Decoded :=
  if code.getLsbD 4 then
    match rest with
    | v :: rest => .ok (writeInstr (code.setWidth 4) v, rest)
    | [] => .error .truncated
  else .ok (readInstr (code.setWidth 4), rest)

/-- The wake command (R127): its data byte, then the access code 0x12 or 0x1A. -/
def decodeWake (data : Byte) (rest : List Byte) : Decoded :=
  match rest with
  | code :: rest =>
    if code = 0x12 then .ok (.duartWWake .a (data.setWidth 4), rest)
    else if code = 0x1A then .ok (.duartWWake .b (data.setWidth 4), rest)
    else .error .badWakeCode
  | [] => .error .truncated

/-! ## Calls -/

/-- A call whose only operand is a bus address. -/
def withAddr (k : CpuAddr → Instr) (bytes : List Byte) : Decoded :=
  match bytes with
  | a0 :: a1 :: a2 :: a3 :: rest => .ok (k (join4 a0 a1 a2 a3), rest)
  | _ => .error .truncated

/-- A call whose operands are a bus address and a byte. -/
def withAddrByte (k : CpuAddr → Byte → Instr) (bytes : List Byte) : Decoded :=
  match bytes with
  | a0 :: a1 :: a2 :: a3 :: v :: rest => .ok (k (join4 a0 a1 a2 a3) v, rest)
  | _ => .error .truncated

/-- A call whose operands are a bus address and a 16-bit datum. -/
def withAddrHalf (k : CpuAddr → Half → Instr) (bytes : List Byte) : Decoded :=
  match bytes with
  | a0 :: a1 :: a2 :: a3 :: v0 :: v1 :: rest => .ok (k (join4 a0 a1 a2 a3) (join2 v0 v1), rest)
  | _ => .error .truncated

/-- The vector read of the bus, whose level the table gives three bits. -/
def withAckLevel (k : BitVec 3 → Instr) (bytes : List Byte) : Decoded :=
  match bytes with
  | l :: rest => if l.toNat < 8 then .ok (k (l.setWidth 3), rest) else .error .badLevel
  | [] => .error .truncated

/-- A controller call by level. -/
def withLevel (k : Int → Instr) (bytes : List Byte) : Decoded :=
  match bytes with
  | l0 :: l1 :: l2 :: l3 :: rest => .ok (k (levelOf l0 l1 l2 l3), rest)
  | _ => .error .truncated

/-- A controller call by source. -/
def withSource (k : SourceId → Instr) (bytes : List Byte) : Decoded :=
  match bytes with
  | kind :: n :: rest =>
    match sourceOf kind n with
    | .ok src => .ok (k src, rest)
    | .error e => .error e
  | _ => .error .truncated

/-- A controller call by source and level. -/
def withSourceLevel (k : SourceId → Int → Instr) (bytes : List Byte) : Decoded :=
  match bytes with
  | kind :: n :: l0 :: l1 :: l2 :: l3 :: rest =>
    match sourceOf kind n with
    | .ok src => .ok (k src (levelOf l0 l1 l2 l3), rest)
    | .error e => .error e
  | _ => .error .truncated

/-- A receive injection. -/
def withChanByte (k : ChanId → Byte → Instr) (bytes : List Byte) : Decoded :=
  match bytes with
  | c :: b :: rest =>
    match chanOf c with
    | .ok ch => .ok (k ch b, rest)
    | .error e => .error e
  | _ => .error .truncated

/-- A call whose only operand is a byte. -/
def withByte (k : Byte → Instr) (bytes : List Byte) : Decoded :=
  match bytes with
  | v :: rest => .ok (k v, rest)
  | [] => .error .truncated

/-- A frame that presents a call, by the number the model gives its name. -/
def decodeCall (tag : Byte) (rest : List Byte) : Decoded :=
  match tag.toNat with
  | 0x20 => withAddr .busRead8 rest
  | 0x21 => withAddrByte .busWrite8 rest
  | 0x22 => withAddr .busRead16 rest
  | 0x23 => withAddrHalf .busWrite16 rest
  | 0x24 => withAckLevel .busIackVector rest
  | 0x30 => withSourceLevel .icSourceAdd rest
  | 0x31 => withLevel .icSourceRemoveLevel rest
  | 0x32 => withSource .icSourceRemoveSrc rest
  | 0x33 => .ok (.icPoll, rest)
  | 0x34 => withLevel .icSourceEnableLevel rest
  | 0x35 => withSource .icSourceEnableSrc rest
  | 0x36 => withLevel .icSourceDisableLevel rest
  | 0x37 => withSource .icSourceDisableSrc rest
  | 0x38 => withLevel .icReadVector rest
  | 0x39 => .ok (.icReset, rest)
  | 0x40 => withChanByte .hostReceive rest
  | 0x41 => withByte .hostSetInputPort rest
  | 0x42 => .ok (.boardReset, rest)
  | _ => .error (.unknownCall tag)

/-! ## The decoder -/

/-- The transaction at the head of a list of bytes, and the bytes after it. -/
def decodeHead (bytes : List Byte) : Decoded :=
  match bytes with
  | [] => .error .empty
  | b :: rest =>
    if b.toNat < 0x20 then decodeAccess b rest
    else if b.toNat / 16 = 0xD then decodeWake b rest
    else decodeCall b rest

/-- The transaction a frame presents: zero bytes may follow it, nothing else may. -/
def decode (f : Frame) : Except Reject Instr :=
  match decodeHead f with
  | .error e => .error e
  | .ok (i, rest) => if rest.all (fun b => decide (b = 0)) then .ok i else .error .trailingData

/-! ## The encoder -/

/-- The frame of a transaction. -/
def encode : Instr → Frame
  | .duartRMra => [0x00]
  | .duartRSra => [0x01]
  | .duartRMisr => [0x02]
  | .duartRRhra => [0x03]
  | .duartRIpcr => [0x04]
  | .duartRIsr => [0x05]
  | .duartRCtu => [0x06]
  | .duartRCtl => [0x07]
  | .duartRMrb => [0x08]
  | .duartRSrb => [0x09]
  | .duartRNoneA => [0x0A]
  | .duartRRhrb => [0x0B]
  | .duartRIvr => [0x0C]
  | .duartRIp => [0x0D]
  | .duartRStart => [0x0E]
  | .duartRStop => [0x0F]
  | .duartWMra v => [0x10, v]
  | .duartWCsra v => [0x11, v]
  | .duartWCra v => [0x12, v]
  | .duartWThra v => [0x13, v]
  | .duartWAcr v => [0x14, v]
  | .duartWImr v => [0x15, v]
  | .duartWCtu v => [0x16, v]
  | .duartWCtl v => [0x17, v]
  | .duartWMrb v => [0x18, v]
  | .duartWCsrb v => [0x19, v]
  | .duartWCrb v => [0x1A, v]
  | .duartWThrb v => [0x1B, v]
  | .duartWIvr v => [0x1C, v]
  | .duartWOpcr v => [0x1D, v]
  | .duartWSopr v => [0x1E, v]
  | .duartWRopr v => [0x1F, v]
  | .duartWWake .a lo => [0xD#4 ++ lo, 0x12]
  | .duartWWake .b lo => [0xD#4 ++ lo, 0x1A]
  | .busRead8 a => 0x20 :: split4 a
  | .busWrite8 a v => 0x21 :: (split4 a ++ [v])
  | .busRead16 a => 0x22 :: split4 a
  | .busWrite16 a v => 0x23 :: (split4 a ++ [byteOf v 0, byteOf v 1])
  | .busIackVector l => [0x24, l.setWidth 8]
  | .icSourceAdd src l => 0x30 :: (sourceBytes src ++ levelBytes l)
  | .icSourceRemoveLevel l => 0x31 :: levelBytes l
  | .icSourceRemoveSrc src => 0x32 :: sourceBytes src
  | .icPoll => [0x33]
  | .icSourceEnableLevel l => 0x34 :: levelBytes l
  | .icSourceEnableSrc src => 0x35 :: sourceBytes src
  | .icSourceDisableLevel l => 0x36 :: levelBytes l
  | .icSourceDisableSrc src => 0x37 :: sourceBytes src
  | .icReadVector l => 0x38 :: levelBytes l
  | .icReset => [0x39]
  | .hostReceive c b => [0x40, chanByte c, b]
  | .hostSetInputPort v => [0x41, v]
  | .boardReset => [0x42]

/-! ## The table's numbers -/

/-- The `n` lowest bytes of a number, the least significant first. -/
def bytesOfNat : Nat → Nat → List Byte
  | 0, _ => []
  | n + 1, w => BitVec.ofNat 8 w :: bytesOfNat n (w / 256)

/-- The frame of an instruction given as the table numbers its bits: the low `nbits` bits of `w`, and zeros above
them up to the longest frame (seven bytes). -/
def frameOfTableWord (nbits w : Nat) : Frame := bytesOfNat 7 (w % 2 ^ nbits)

/-- The instruction the decoder reads from the bits `w` of an opcode-table row. -/
def decodeTableWord (nbits w : Nat) : Option Instr :=
  match decode (frameOfTableWord nbits w) with
  | .ok i => some i
  | .error _ => none

end Sys2Proof
end

