-- ==== Sys2Proof/Machine/State.lean ====
section
/-! DEFINITION. The state of the block (10_state.md), as plain data; why a transaction can be refused; and the state
right after reset. A field marked MODEL is not the spec's state but the model's own record of the block's boundary. -/

namespace Sys2Proof.Machine

/-- The block raises no fault: "every transaction completes and returns a value or nothing" (60_exceptions.md R340,
41_bus.md R170), so this type has no constructor. -/
inductive Fault : Type
deriving DecidableEq, Repr

/-- Why a transaction, a frame or a construction has no meaning. -/
inductive Refusal where
  /-- Raised by an arm of `exec` for an instruction with no meaning yet. No arm raises it. Safe. -/
  | notModelled (mnemonic : String)
  /-- Raised by `step` for a frame that presents no transaction of the block. The frame is the model's own, so no
  transaction of the spec is lost. Safe. -/
  | undecodableFrame (why : Reject)
  /-- Raised by a write to LOW or ROMWIN while the boot overlay is on: "has no meaning in this spec and is refused"
  (20_memory.md R83, 41_bus.md R173). Safe. -/
  | writeDuringOverlay
  /-- Raised by a read through the boot overlay beyond the end of the buffer it reaches: "has no meaning and is
  refused" (41_bus.md R171 for a LOW address beyond a short ROM). Safe. -/
  | overlayBeyondBuffer
  /-- Raised by `construct` for parameters that break rule R8: "the model has no meaning for it". Safe. -/
  | badParameters
  /-- Raised by `construct` where the ROM image is missing or RAM or ROM cannot be allocated (R386). Safe. -/
  | noBackingStore
deriving DecidableEq, Repr

/-- RAM or ROM: the bytes that differ from `Config.unlistedByte`, by index. -/
abbrev Memory := List Host.Cell

/-- A bound controller slot (R34). -/
structure Slot where
  src : SourceId
  enabled : Bool
deriving DecidableEq, Repr

/-- One UART channel (R47 to R50). -/
structure Channel where
  /-- Receiver enabled (R47). -/
  rxEn : Bool
  /-- Transmitter enabled (R47). -/
  txEn : Bool
  /-- The receive FIFO, oldest byte first (R48). -/
  fifo : List Byte
  /-- The mode-register pointer (R49). -/
  mrPtr : Fin 2
  /-- `mr[0]`, MR1 (R49). -/
  mr0 : Byte
  /-- `mr[1]`, MR2 (R49). -/
  mr1 : Byte
  /-- The clock-select latch (R50). -/
  csr : Byte
deriving DecidableEq, Repr

/-- The counter/timer (R46). -/
structure Timer where
  started : Bool
  interval : Time
  cur : Time
  next : Time
  ack : Bool
deriving DecidableEq, Repr

/-- The DUART chip (R37 to R50). -/
structure Duart where
  /-- Interrupt vector register (R37). -/
  ivr : Byte
  /-- Interrupt mask register (R38). -/
  imr : Byte
  /-- Auxiliary control register (R39). -/
  acr : Byte
  /-- Counter/timer reload value (R40). -/
  ctr : Half
  /-- Output-port register; the pins are its complement (R41). -/
  opr : Byte
  /-- Input port, six significant bits (R42). -/
  ipValue : Byte
  /-- Input-port change bits (R43). -/
  ipChanges : Byte
  /-- Standby flag (R44). -/
  standby : Bool
  timer : Timer
  chanA : Channel
  chanB : Channel
deriving DecidableEq, Repr

/-- One call of a transmit callback, `Tx(ch, b)` (R282). -/
structure TxEvent where
  ch : Nat
  b : Byte
deriving DecidableEq, Repr

/-- An answer of the environment that a harness supplies in advance ("injectable clock source", R311; D30). -/
inductive Draw where
  | clock (t : Time)
  | bool (b : Bool)
  | byte (v : Byte)
deriving DecidableEq, Repr

/-- MODEL. Where the draws of R12 come from: the answers supplied in advance, the number of free values used so far,
and the latest clock reading, below which no later one falls (R311). -/
structure Env where
  script : List Draw
  count : Nat
  clock : Time
deriving DecidableEq, Repr

/-- What a transaction answers to the agent that issued it. -/
inductive Reply where
  | nothing
  | byte (v : Byte)
  | word (v : Half)
  | bool (b : Bool)
  | level (l : BitVec 3)
deriving DecidableEq, Repr

/-- The whole machine. -/
structure State where
  /-- The parameters of this construction (R7). -/
  params : Params
  /-- RAM (R31). -/
  ram : Memory
  /-- ROM (R32). -/
  rom : Memory
  /-- The boot overlay (R33). -/
  overlay : Bool
  /-- The controller's slots, level 1 at index 0 (R34). -/
  slots : Vector (Option Slot) 7
  /-- The DUART (R37 to R50). -/
  duart : Duart
  /-- The transmit trace, oldest first (R282). -/
  txTrace : List TxEvent
  /-- The recorded resets of extra sources, oldest first (R343). -/
  resetTrace : List Byte
  /-- MODEL. The environment's draws. -/
  env : Env
  /-- MODEL. The answer of the latest transaction. -/
  reply : Reply
  /-- MODEL. The level the latest poll reported to the CPU core (R180, R344). -/
  ipl : BitVec 3
  /-- MODEL. What the CPU core's reset sequence read during the latest board reset, oldest first (R384). -/
  resetReads : List Reply
  /-- MODEL. The transactions the agents of R5 present, oldest first: the schedule is the model's input (R85). -/
  pending : List Frame
deriving DecidableEq, Repr

/-- A channel at its construction and reset value (R47 to R50, R382). -/
def Channel.initial : Channel :=
  { rxEn := false, txEn := false, fifo := [], mrPtr := 0, mr0 := 0x00, mr1 := 0x00, csr := 0x00 }

/-- A stopped timer. The spec leaves its three times unspecified (R46); zero is DESIGN CHOICE
(notes/assumptions/7.md). -/
def Timer.initial : Timer :=
  { started := false, interval := 0, cur := 0, next := 0, ack := false }

/-- The DUART at construction (R37 to R50), given the parameters. -/
def Duart.initial (p : Params) : Duart :=
  { ivr := 0x0F, imr := 0x00, acr := 0x00, ctr := 0x0000, opr := 0x00, ipValue := p.ipInit.setWidth 8,
    ipChanges := 0x00, standby := p.standbyInit, timer := .initial, chanA := .initial, chanB := .initial }

/-- The environment before the first draw: nothing supplied in advance (notes/assumptions/4.md). -/
def Env.initial : Env := { script := [], count := 0, clock := 0 }

/-- The machine after power-on (R385): construction with the default parameters, then one board reset, in which the
CPU core's reset sequence read four words of the ROM. -/
def State.reset : State :=
  { params := {}
    ram := []
    rom := []
    overlay := false
    slots := #v[none, none, none, some ⟨.duart, true⟩, none, none, none]
    duart := .initial {}
    txTrace := []
    resetTrace := []
    env := .initial
    reply := .nothing
    ipl := 0
    resetReads := [.word 0, .word 0, .word 0, .word 0]
    pending := [] }

/-! ## Named updates: one field each -/

def State.withReply (s : State) (r : Reply) : State := { s with reply := r }
def State.withDuart (s : State) (d : Duart) : State := { s with duart := d }
def State.withEnv (s : State) (e : Env) : State := { s with env := e }
def State.withRam (s : State) (m : Memory) : State := { s with ram := m }
def State.withSlots (s : State) (v : Vector (Option Slot) 7) : State := { s with slots := v }
def State.withOverlay (s : State) (b : Bool) : State := { s with overlay := b }
def State.withTxTrace (s : State) (t : List TxEvent) : State := { s with txTrace := t }
def State.withResetTrace (s : State) (t : List Byte) : State := { s with resetTrace := t }
def State.withIpl (s : State) (l : BitVec 3) : State := { s with ipl := l }
def State.withResetReads (s : State) (r : List Reply) : State := { s with resetReads := r }
def State.withPending (s : State) (p : List Frame) : State := { s with pending := p }

end Sys2Proof.Machine
end

