-- ==== Sys2Proof/Machine/Operands.lean ====
section
/-! DEFINITION. How the operands of a transaction are read: the address decoder (20_memory.md R71 to R76), the fields
of a command byte (30_encoding.md R115), the timer divisor (R312), and the keys of the controller (R148). -/

namespace Sys2Proof.Machine

/-! ## The address decoder -/

/-- The four regions of the bus space (R72). -/
inductive Region where
  | low
  | void
  | romWin
  | io
deriving DecidableEq, Repr

/-- An address is reduced to 24 bits before decoding (R71). -/
def mask24 (addr : CpuAddr) : BusAddr := addr.setWidth 24

/-- The address of the second byte of a 16-bit access, `(a + 1) & 0xFFFFFF` (R80). -/
def nextAddr (a : BusAddr) : BusAddr := a + 1

/-- The region of an address, tested in the order RAM, void, ROM, I/O (R72). -/
def regionOf (p : Params) (a : BusAddr) : Region :=
  if a.toNat ≤ Config.ramSize - 1 then .low
  else if a.toNat < p.romBase then .void
  else if a.toNat ≤ p.romBase + p.romSize - 1 then .romWin
  else if p.ioBase ≤ a.toNat then .io
  else .void

/-- `ra(a24) = ((a24 - IO_BASE) >> 1) & 0xFF` (R13, R75). -/
def relAddr (p : Params) (a : BusAddr) : Nat := ((a.toNat - p.ioBase) >>> 1) &&& 0xFF

/-- The DUART register an I/O address reaches: none at an even address (R75); beyond register 0xF as `IO_REG_ALIAS`
says (R76). -/
def liveReg (p : Params) (a : BusAddr) : Option (BitVec 4) :=
  if a.getLsbD 0 then
    if relAddr p a ≤ 0xF then some (BitVec.ofNat 4 (relAddr p a))
    else
      match p.ioRegAlias with
      | .inert => none
      | .mask4 => some (BitVec.ofNat 4 (relAddr p a &&& 0xF))
  else none

/-! ## Fields of a data byte -/

/-- Bits 7..4 of a command byte: the command (R115). -/
def cmdCode (v : Byte) : BitVec 4 := v.extractLsb' 4 4

/-- Bits 3..0 of an input-port byte, as the IPCR shows them (R113). -/
def lowNibble (v : Byte) : BitVec 4 := v.setWidth 4

/-- The divisor that `acr[6:4]` selects: the two crystal modes, or none (R112, R312). -/
def divisor (acr : Byte) : Option Nat :=
  match (acr.extractLsb' 4 3).toNat with
  | 0b110 => some 1
  | 0b111 => some 16
  | _ => none

/-- Bits 15..8 of `ctr` (R117). -/
def ctrHigh (ctr : Half) : Byte := ctr.extractLsb' 8 8

/-- Bits 7..0 of `ctr` (R117). -/
def ctrLow (ctr : Half) : Byte := ctr.setWidth 8

/-! ## Keys of the controller -/

/-- The slot index of a level, for a level in 1..7 (R34). -/
def levelIndex (level : Int) : Option (Fin 7) :=
  if h : 1 ≤ level ∧ level ≤ 7 then some ⟨(level - 1).toNat, by omega⟩ else none

/-- The slot indices in ascending level order. -/
def slotOrder : List (Fin 7) := [0, 1, 2, 3, 4, 5, 6]

/-- The level of a slot index, as the controller reports it. -/
def levelOfIndex (i : Fin 7) : BitVec 3 := BitVec.ofNat 3 (i.val + 1)

/-- `find(level)` (R148). -/
def findLevel (slots : Vector (Option Slot) 7) (level : Int) : Option (Fin 7) :=
  match levelIndex level with
  | some i => if (slots.get i).isSome then some i else none
  | none => none

/-- Whether a slot binds this source, enabled or not. -/
def bindsSource (src : SourceId) (slot : Option Slot) : Bool :=
  match slot with
  | some sl => decide (sl.src = src)
  | none => false

/-- `find(src)`: the lowest level that binds the source (R148). -/
def findSource (slots : Vector (Option Slot) 7) (src : SourceId) : Option (Fin 7) :=
  slotOrder.find? (fun i => bindsSource src (slots.get i))

end Sys2Proof.Machine
end

