-- ==== Sys2Proof/Machine/Flags.lean ====
section
/-! DEFINITION. The status bits: each is computed from the state and never stored (10_state.md R52, R53). -/

namespace Sys2Proof.Machine

/-- One status bit: its mask where the condition holds. -/
def flagBit (mask : Byte) (cond : Bool) : Byte := if cond then mask else 0x00

/-- The channel's poll bits: bit 0 transmitter enabled, bit 1 FIFO non-empty (R284). -/
def chanPoll (c : Channel) : Byte :=
  flagBit 0x01 c.txEn ||| flagBit 0x02 (decide (0 < c.fifo.length))

/-- The channel status register: TxEMT and TxRDY, FFULL, RxRDY (R114, R262). -/
def statusByte (c : Channel) : Byte :=
  flagBit 0x0C c.txEn ||| flagBit 0x02 (decide (Config.ffullThreshold < c.fifo.length))
    ||| flagBit 0x01 (decide (0 < c.fifo.length))

/-- The input-port change condition, `(ip_changes & acr & 0x0F) != 0` (R302). -/
def ipChangeFlag (d : Duart) : Bool := decide (d.ipChanges &&& d.acr &&& 0x0F ≠ 0)

/-- The interrupt status composed of its conditions, bit 3 given (R300). -/
def isrOf (d : Duart) (counterReady : Bool) : Byte :=
  chanPoll d.chanA ||| (chanPoll d.chanB <<< 4) ||| flagBit 0x08 counterReady ||| flagBit 0x80 (ipChangeFlag d)

/-- The IPCR byte: changes in bits 7..4, current input in bits 3..0 (R113). -/
def ipcrByte (d : Duart) : Byte := lowNibble d.ipChanges ++ lowNibble d.ipValue

/-- The output pins, `~opr` (R41, R249). -/
def outputPins (d : Duart) : Byte := ~~~d.opr

/-- The levels of the pins wired to a role (R249, parameter `SPI_PINS`). -/
def pinLevels (p : Params) (role : PinRole) (d : Duart) : List Bool :=
  (p.spiPins.filter (fun e => decide (e.1 = role))).map (fun e => (outputPins d).getLsbD e.2.val)

end Sys2Proof.Machine
end

