-- ==== Sys2Proof/Machine/Ops.lean ====
section
/-! DEFINITION. The shared operations over memory, draws, the timer, the channels, the chip and the controller. The
block takes no exception and returns from none (60_exceptions.md R340, R348, R351): its part in an interrupt is the
poll and the vector read at the end of this file. -/

namespace Sys2Proof.Machine

/-! ## Memory -/

/-- The byte a memory holds at an index. -/
def memRead : Memory → Nat → Byte
  | [], _ => Config.unlistedByte
  | (k, v) :: rest, a => if k = a then v else memRead rest a

/-- The entry for index `a`: none where the byte is what an unlisted index reads as. -/
def cellFor (a : Nat) (v : Byte) : Memory := if v = Config.unlistedByte then [] else [(a, v)]

/-- Store a byte, keeping the canonical form. -/
def memWrite : Memory → Nat → Byte → Memory
  | [], a, v => cellFor a v
  | (k, w) :: rest, a, v =>
    if k < a then (k, w) :: memWrite rest a v
    else if k = a then cellFor a v ++ rest
    else cellFor a v ++ (k, w) :: rest

/-- Indices strictly rising from above `lo`, and no entry that says what an unlisted index reads as. -/
def Memory.risesFrom : Nat → Memory → Bool
  | _, [] => true
  | lo, (k, v) :: rest => decide (lo ≤ k) && decide (v ≠ Config.unlistedByte) && Memory.risesFrom (k + 1) rest

/-- The canonical form: equal memories are equal lists. -/
def Memory.wf (m : Memory) : Bool := m.risesFrom 0

/-- Every listed index is below `n`. -/
def Memory.below (m : Memory) (n : Nat) : Bool := m.all (fun c => decide (c.1 < n))

/-! ## Draws (R12, R311, R343) -/

/-- The later of two times. -/
def laterOf (t u : Time) : Time := if t ≤ u then u else t

/-- `draw now`: a reading supplied in advance or a free one, never less than an earlier reading (R311). -/
def Env.drawNow (e : Env) : Time × Env :=
  match e.script with
  | .clock t :: rest => (laterOf e.clock t, { e with script := rest, clock := laterOf e.clock t })
  | _ =>
    (laterOf e.clock (Config.freeTime e.count),
      { e with count := e.count + 1, clock := laterOf e.clock (Config.freeTime e.count) })

/-- `draw b : Bool` (R275, R343). -/
def Env.drawBool (e : Env) : Bool × Env :=
  match e.script with
  | .bool b :: rest => (b, { e with script := rest })
  | _ => (Config.freeBool e.count, { e with count := e.count + 1 })

/-- The draw of an extra source's vector (R343). -/
def Env.drawByte (e : Env) : Byte × Env :=
  match e.script with
  | .byte v :: rest => (v, { e with script := rest })
  | _ => (Config.freeByte e.count, { e with count := e.count + 1 })

/-! ## Counter/timer (R313 to R316) -/

/-- `INTERVAL_QUANT` (R314); a host's rounding is kept non-negative (R310). -/
def quantise (q : IntervalQuant) (t : Time) : Time :=
  match q with
  | .exact => t
  | .host => laterOf 0 (Config.hostRound t)

/-- `freq(d, ctr) = (CRYSTAL_HZ / d) / (2 * ctr)` in Hz (R314). -/
def timerFreq (d : Nat) (ctr : Half) : Rat := (Config.crystalHz / d) / (2 * ctr.toNat)

/-- The period in milliseconds (R314). -/
def timerInterval (q : IntervalQuant) (d : Nat) (ctr : Half) : Time := quantise q (1000 / timerFreq d ctr)

/-- `timerStart(now)` (R313). -/
def timerStart (p : Params) (acr : Byte) (ctr : Half) (now : Time) (t : Timer) : Timer :=
  match divisor acr with
  | none => { t with started := false }
  | some d =>
    if ctr = 0 then { t with started := false }
    else
      { started := true, interval := timerInterval p.intervalQuant d ctr,
        cur := now + timerInterval p.intervalQuant d ctr,
        next := now + timerInterval p.intervalQuant d ctr + timerInterval p.intervalQuant d ctr, ack := false }

/-- `timerStop()`: the period is acknowledged, the deadlines stand (R316). -/
def timerStop (t : Timer) : Timer := { t with ack := true }

/-- `timerCheck(now)` (R315). -/
def timerCheck (ackOnAdvance : Bool) (now : Time) (t : Timer) : Bool × Timer :=
  if t.started then
    if t.next ≤ now then
      (true, { t with cur := t.next, next := now + t.interval, ack := if ackOnAdvance then false else t.ack })
    else if t.cur ≤ now then (!t.ack, t)
    else (false, t)
  else (false, t)

/-! ## Channels (44_uart_channel.md) -/

/-- The channel `c` of the chip. -/
def Duart.chan (d : Duart) (c : ChanId) : Channel :=
  match c with
  | .a => d.chanA
  | .b => d.chanB

/-- Replace the channel `c` of the chip. -/
def Duart.setChan (d : Duart) (c : ChanId) (ch : Channel) : Duart :=
  match c with
  | .a => { d with chanA := ch }
  | .b => { d with chanB := ch }

/-- Channel `c` of the machine. -/
def State.chan (s : State) (c : ChanId) : Channel := s.duart.chan c

/-- Replace channel `c` of the machine. -/
def State.setChan (s : State) (c : ChanId) (ch : Channel) : State := s.withDuart (s.duart.setChan c ch)

/-- The mode register the pointer selects (R49). -/
def Channel.modeReg (ch : Channel) : Byte := if ch.mrPtr = 0 then ch.mr0 else ch.mr1

/-- Store into the mode register the pointer selects, then advance the pointer (R270). -/
def Channel.storeMode (ch : Channel) (v : Byte) : Channel :=
  if ch.mrPtr = 0 then { ch with mr0 := v, mrPtr := 1 } else { ch with mr1 := v, mrPtr := 1 }

/-- Mode register read (R261). -/
def readMode (c : ChanId) (s : State) : Byte × State :=
  ((s.chan c).modeReg, s.setChan c { s.chan c with mrPtr := 1 })

/-- Status register read (R262). -/
def readStatus (c : ChanId) (s : State) : Byte × State := (statusByte (s.chan c), s)

/-- Receive holding register read: pop the oldest byte, 0 if there is none (R263). -/
def readHolding (c : ChanId) (s : State) : Byte × State :=
  match (s.chan c).fifo with
  | [] => (0x00, s)
  | b :: rest => (b, s.setChan c { s.chan c with fifo := rest })

/-- Mode register write (R270). -/
def writeMode (c : ChanId) (v : Byte) (s : State) : State := s.setChan c ((s.chan c).storeMode v)

/-- Clock-select write (R271). -/
def writeClockSelect (c : ChanId) (v : Byte) (s : State) : State := s.setChan c { s.chan c with csr := v }

/-- One enable pair of a command byte: set, cleared, unchanged, or a draw where both bits are set (R273 to R275). -/
def enablePair (enable disable current : Bool) (e : Env) : Bool × Env :=
  match enable, disable with
  | true, true => e.drawBool
  | true, false => (true, e)
  | false, true => (false, e)
  | false, false => (current, e)

/-- The command of bits 7..4 (R116, R276 to R279). -/
def commandEffect (c : ChanId) (code : BitVec 4) (s : State) : State :=
  match code.toNat with
  | 0x1 => s.setChan c { s.chan c with mrPtr := 0 }
  | 0x2 => s.setChan c { s.chan c with rxEn := false, fifo := [] }
  | 0xC => if s.params.cmdCEntersStandby then s.withDuart { s.duart with standby := true } else s
  | _ => s

/-- The receiver's pair of a command byte: bits 0 and 1 (R273). -/
def rxPair (c : ChanId) (v : Byte) (s : State) : Bool × Env :=
  enablePair (v.getLsbD 0) (v.getLsbD 1) (s.chan c).rxEn s.env

/-- The transmitter's pair of a command byte: bits 2 and 3, after the receiver's (R274). -/
def txPair (c : ChanId) (v : Byte) (s : State) : Bool × Env :=
  enablePair (v.getLsbD 2) (v.getLsbD 3) (s.chan c).txEn (rxPair c v s).2

/-- The enable bits of a command byte, the receiver's pair first (R272). -/
def applyEnables (c : ChanId) (v : Byte) (s : State) : State :=
  (s.setChan c { s.chan c with rxEn := (rxPair c v s).1, txEn := (txPair c v s).1 }).withEnv (txPair c v s).2

/-- Command register write: the enable bits, then the command (R272, R280). -/
def writeCommand (c : ChanId) (v : Byte) (s : State) : State := commandEffect c (cmdCode v) (applyEnables c v s)

/-- The channel number a transmit callback gets: A is 0, B is 1 (R281). -/
def chanNumber (c : ChanId) : Nat :=
  match c with
  | .a => 0
  | .b => 1

/-- Transmit holding write: the byte is sent if the transmitter is enabled (R281, R282). -/
def writeHolding (c : ChanId) (v : Byte) (s : State) : State :=
  if (s.chan c).txEn then s.withTxTrace (s.txTrace ++ [⟨chanNumber c, v⟩]) else s

/-- `receive(c, b)` (R283). -/
def receiveByte (c : ChanId) (b : Byte) (s : State) : State :=
  if (s.chan c).rxEn then
    if (s.chan c).fifo.length = Config.fifoCap then s
    else s.setChan c { s.chan c with fifo := (s.chan c).fifo ++ [b] }
  else s

/-! ## The chip (45_timer_ports.md) -/

/-- `getIsr(now)` and the chip with its timer's bookkeeping done (R300). -/
def getIsr (p : Params) (now : Time) (d : Duart) : Byte × Duart :=
  (isrOf d (timerCheck p.timerAckOnAdvance now d.timer).1,
    { d with timer := (timerCheck p.timerAckOnAdvance now d.timer).2 })

/-- One evaluation of the ISR by a caller that draws the clock (R202, R205, R304). -/
def evalIsr (s : State) : Byte × State :=
  ((getIsr s.params s.env.drawNow.1 s.duart).1,
    (s.withEnv s.env.drawNow.2).withDuart (getIsr s.params s.env.drawNow.1 s.duart).2)

/-- The DUART's `pollForInterrupt()` (R304). -/
def duartPoll (s : State) : Bool × State :=
  if s.duart.standby then (false, s)
  else (decide ((evalIsr s).1 &&& s.duart.imr ≠ 0x00), (evalIsr s).2)

/-- `setInputPort(v)` on the chip (R305). -/
def Duart.setInput (d : Duart) (v : Byte) : Duart :=
  { d with ipValue := v &&& 0x3F, ipChanges := d.ipValue ^^^ (v &&& 0x3F) }

/-- The chip's reset: `ip_value` and `standby` stand, and the timer's times, which no rule reads while it is stopped
(R381, R382, R46). -/
def Duart.reset (d : Duart) : Duart :=
  { d with
    ivr := 0x0F, imr := 0x00, acr := 0x00, ctr := 0x0000, opr := 0x00, ipChanges := 0x00,
    timer := { d.timer with started := false, ack := false },
    chanA := .initial, chanB := .initial }

/-! ## Replies -/

/-- A read's answer. -/
def answerByte (r : Byte × State) : State := r.2.withReply (.byte r.1)

/-- A write answers nothing. -/
def answerNothing (s : State) : State := s.withReply .nothing

/-- A configuration call's answer. -/
def answerBool (b : Bool) (s : State) : State := s.withReply (.bool b)

/-! ## The standby gate -/

/-- A read in standby answers 0 and changes nothing (R216). -/
def gatedRead (f : State → Byte × State) (s : State) : Byte × State :=
  if s.duart.standby then (0x00, s) else f s

/-- Whether a write is the wake command: a command register and data bits 7..4 = 0xD (R246, R247). -/
def isWake (r : BitVec 4) (v : Byte) : Bool :=
  (decide (r = 0x2) || decide (r = 0xA)) && decide (cmdCode v = 0xD)

/-- A write in standby is discarded, but for the wake command (R246, R247). -/
def gatedWrite (r : BitVec 4) (v : Byte) (f : State → State) (s : State) : State :=
  if s.duart.standby then
    if isWake r v then s.withDuart { s.duart with standby := false } else s
  else f s

/-! ## The controller (40_controller.md) -/

/-- A source's `pollForInterrupt()`: an extra source's answer is a draw (R304, R343). -/
def pollSource (src : SourceId) (s : State) : Bool × State :=
  match src with
  | .duart => duartPoll s
  | .extra _ => (s.env.drawBool.1, s.withEnv s.env.drawBool.2)

/-- The arbiter's scan over the given slots, from a level already reported (R143). -/
def pollSlots : List (Fin 7) → BitVec 3 → State → BitVec 3 × State
  | [], ipl, s => (ipl, s)
  | i :: rest, ipl, s =>
    match s.slots.get i with
    | some ⟨src, true⟩ =>
      pollSlots rest (if (pollSource src s).1 then levelOfIndex i else ipl) (pollSource src s).2
    | _ => pollSlots rest ipl s

/-- `mpuPollInterrupt()` (R143). -/
def pollInterrupt (s : State) : BitVec 3 × State := pollSlots slotOrder 0 s

/-- A source's `readVector()`: the DUART's is `ivr` (R346), an extra source's a draw (R343). -/
def sourceVector (src : SourceId) (s : State) : Byte × State :=
  match src with
  | .duart => (s.duart.ivr, s)
  | .extra _ => (s.env.drawByte.1, s.withEnv s.env.drawByte.2)

/-- `mpuReadVector(level)` (R146). -/
def readVector (level : Int) (s : State) : Byte × State :=
  match levelIndex level with
  | none => (Config.sentinelVector, s)
  | some i =>
    match s.slots.get i with
    | some ⟨src, true⟩ => sourceVector src s
    | _ => (Config.sentinelVector, s)

/-- A source's `reset()`: an extra source's is recorded (R343, R381). -/
def resetSource (src : SourceId) (s : State) : State :=
  match src with
  | .duart => s.withDuart s.duart.reset
  | .extra k => s.withResetTrace (s.resetTrace ++ [k])

/-- The reset of every source bound in the given slots, enabled or not (R147). -/
def resetSlots : List (Fin 7) → State → State
  | [], s => s
  | i :: rest, s =>
    match s.slots.get i with
    | some sl => resetSlots rest (resetSource sl.src s)
    | none => resetSlots rest s

/-- `reset()` of the controller (R147). -/
def controllerReset (s : State) : State := resetSlots slotOrder s

/-- Put a slot at an index. -/
def putSlot (i : Fin 7) (slot : Option Slot) (s : State) : State := s.withSlots (s.slots.set i.val slot i.isLt)

/-- `sourceAdd(src, level)` (R141). -/
def addSource (src : SourceId) (level : Int) (s : State) : State :=
  match levelIndex level with
  | none => answerBool false s
  | some i =>
    if (s.slots.get i).isSome then answerBool false s
    else answerBool true (putSlot i (some ⟨src, true⟩) s)

/-- `sourceRemove(key)` once the key is looked up (R142). -/
def removeAt (found : Option (Fin 7)) (s : State) : State :=
  match found with
  | none => answerBool false s
  | some i => answerBool true (putSlot i none s)

/-- `sourceEnable(key)` and `sourceDisable(key)` once the key is looked up (R144, R145). -/
def setEnabledAt (found : Option (Fin 7)) (enabled : Bool) (s : State) : State :=
  match found with
  | none => answerBool false s
  | some i => answerBool true (putSlot i ((s.slots.get i).map (fun sl => { sl with enabled := enabled })) s)

end Sys2Proof.Machine
end

