-- ==== Sys2Proof/Machine/DuartRead.lean ====
section
/-! DEFINITION. The DUART register reads (42_duart_read.md): for each relative address what the register answers
outside standby, and the transaction that reads it through the standby gate. -/

namespace Sys2Proof.Machine

/-! ## What each register answers outside standby -/

/-- Masked interrupt status (R202, R303). -/
def readMaskedIsr (s : State) : Byte × State := ((evalIsr s).1 &&& s.duart.imr, (evalIsr s).2)

/-- Raw interrupt status (R205). -/
def readIsr (s : State) : Byte × State := evalIsr s

/-- Input port change register, cleared by the read (R204). -/
def readIpcr (s : State) : Byte × State :=
  (ipcrByte s.duart, s.withDuart { s.duart with ipChanges := 0x00 })

/-- Counter/timer high byte (R206). -/
def readCtrHigh (s : State) : Byte × State := (ctrHigh s.duart.ctr, s)

/-- Counter/timer low byte (R207). -/
def readCtrLow (s : State) : Byte × State := (ctrLow s.duart.ctr, s)

/-- Relative address 0xA has no read operation (R210). -/
def readNothing (s : State) : Byte × State := (0x00, s)

/-- Interrupt vector register (R212). -/
def readIvr (s : State) : Byte × State := (s.duart.ivr, s)

/-- Input port (R213). -/
def readInput (s : State) : Byte × State := (s.duart.ipValue, s)

/-- Start counter/timer (R214). -/
def readStart (s : State) : Byte × State :=
  (0x00, (s.withEnv s.env.drawNow.2).withDuart
    { s.duart with timer := timerStart s.params s.duart.acr s.duart.ctr s.env.drawNow.1 s.duart.timer })

/-- Stop counter/timer (R215). -/
def readStop (s : State) : Byte × State := (0x00, s.withDuart { s.duart with timer := timerStop s.duart.timer })

/-- The read map (R102), outside standby. -/
def readReg (r : BitVec 4) (s : State) : Byte × State :=
  match r.toNat with
  | 0x0 => readMode .a s
  | 0x1 => readStatus .a s
  | 0x2 => readMaskedIsr s
  | 0x3 => readHolding .a s
  | 0x4 => readIpcr s
  | 0x5 => readIsr s
  | 0x6 => readCtrHigh s
  | 0x7 => readCtrLow s
  | 0x8 => readMode .b s
  | 0x9 => readStatus .b s
  | 0xA => readNothing s
  | 0xB => readHolding .b s
  | 0xC => readIvr s
  | 0xD => readInput s
  | 0xE => readStart s
  | _ => readStop s

/-- `duart_read(r)` (R216). -/
def duartRead (r : BitVec 4) (s : State) : Byte × State := gatedRead (readReg r) s

/-! ## The transactions -/

/-- A read transaction: the register's answer through the standby gate. -/
def runRead (f : State → Byte × State) (s : State) : Host.Outcome State Fault Refusal :=
  .next (answerByte (gatedRead f s))

/-- DUART_R_MRA (R200). -/
def execDuartRMra (s : State) : Host.Outcome State Fault Refusal := runRead (readMode .a) s
/-- DUART_R_SRA (R201). -/
def execDuartRSra (s : State) : Host.Outcome State Fault Refusal := runRead (readStatus .a) s
/-- DUART_R_MISR (R202). -/
def execDuartRMisr (s : State) : Host.Outcome State Fault Refusal := runRead readMaskedIsr s
/-- DUART_R_RHRA (R203). -/
def execDuartRRhra (s : State) : Host.Outcome State Fault Refusal := runRead (readHolding .a) s
/-- DUART_R_IPCR (R204). -/
def execDuartRIpcr (s : State) : Host.Outcome State Fault Refusal := runRead readIpcr s
/-- DUART_R_ISR (R205). -/
def execDuartRIsr (s : State) : Host.Outcome State Fault Refusal := runRead readIsr s
/-- DUART_R_CTU (R206). -/
def execDuartRCtu (s : State) : Host.Outcome State Fault Refusal := runRead readCtrHigh s
/-- DUART_R_CTL (R207). -/
def execDuartRCtl (s : State) : Host.Outcome State Fault Refusal := runRead readCtrLow s
/-- DUART_R_MRB (R208). -/
def execDuartRMrb (s : State) : Host.Outcome State Fault Refusal := runRead (readMode .b) s
/-- DUART_R_SRB (R209). -/
def execDuartRSrb (s : State) : Host.Outcome State Fault Refusal := runRead (readStatus .b) s
/-- DUART_R_NONE_A (R210). -/
def execDuartRNoneA (s : State) : Host.Outcome State Fault Refusal := runRead readNothing s
/-- DUART_R_RHRB (R211). -/
def execDuartRRhrb (s : State) : Host.Outcome State Fault Refusal := runRead (readHolding .b) s
/-- DUART_R_IVR (R212). -/
def execDuartRIvr (s : State) : Host.Outcome State Fault Refusal := runRead readIvr s
/-- DUART_R_IP (R213). -/
def execDuartRIp (s : State) : Host.Outcome State Fault Refusal := runRead readInput s
/-- DUART_R_START (R214). -/
def execDuartRStart (s : State) : Host.Outcome State Fault Refusal := runRead readStart s
/-- DUART_R_STOP (R215). -/
def execDuartRStop (s : State) : Host.Outcome State Fault Refusal := runRead readStop s

end Sys2Proof.Machine
end

