-- ==== Sys2Proof/Machine/DuartWrite.lean ====
section
/-! DEFINITION. The DUART register writes (43_duart_write.md): for each relative address what the write does outside
standby, and the transaction that writes it through the standby gate. -/

namespace Sys2Proof.Machine

/-! ## What each write does outside standby -/

/-- Auxiliary control register (R234). -/
def writeAcr (v : Byte) (s : State) : State := s.withDuart { s.duart with acr := v }

/-- Interrupt mask register (R235). -/
def writeImr (v : Byte) (s : State) : State := s.withDuart { s.duart with imr := v }

/-- Counter/timer high byte (R236). -/
def writeCtrHigh (v : Byte) (s : State) : State := s.withDuart { s.duart with ctr := v ++ ctrLow s.duart.ctr }

/-- Counter/timer low byte (R237). -/
def writeCtrLow (v : Byte) (s : State) : State := s.withDuart { s.duart with ctr := ctrHigh s.duart.ctr ++ v }

/-- Interrupt vector register (R242). -/
def writeIvr (v : Byte) (s : State) : State := s.withDuart { s.duart with ivr := v }

/-- Output-port configuration, ignored (R243). -/
def writeOpcr (_ : Byte) (s : State) : State := s

/-- Set output-port bits (R244). -/
def writeSetBits (v : Byte) (s : State) : State := s.withDuart { s.duart with opr := s.duart.opr ||| v }

/-- Clear output-port bits (R245). -/
def writeClearBits (v : Byte) (s : State) : State := s.withDuart { s.duart with opr := s.duart.opr &&& ~~~v }

/-- The write map (R103), outside standby. -/
def writeReg (r : BitVec 4) (v : Byte) (s : State) : State :=
  match r.toNat with
  | 0x0 => writeMode .a v s
  | 0x1 => writeClockSelect .a v s
  | 0x2 => writeCommand .a v s
  | 0x3 => writeHolding .a v s
  | 0x4 => writeAcr v s
  | 0x5 => writeImr v s
  | 0x6 => writeCtrHigh v s
  | 0x7 => writeCtrLow v s
  | 0x8 => writeMode .b v s
  | 0x9 => writeClockSelect .b v s
  | 0xA => writeCommand .b v s
  | 0xB => writeHolding .b v s
  | 0xC => writeIvr v s
  | 0xD => writeOpcr v s
  | 0xE => writeSetBits v s
  | _ => writeClearBits v s

/-- `duart_write(r, v)` (R246). -/
def duartWrite (r : BitVec 4) (v : Byte) (s : State) : State := gatedWrite r v (writeReg r v) s

/-! ## The transactions -/

/-- A write transaction: the register's effect through the standby gate. -/
def runWrite (r : BitVec 4) (v : Byte) (f : State → State) (s : State) : Host.Outcome State Fault Refusal :=
  .next (answerNothing (gatedWrite r v f s))

/-- DUART_W_MRA (R230). -/
def execDuartWMra (v : Byte) (s : State) : Host.Outcome State Fault Refusal := runWrite 0x0 v (writeMode .a v) s
/-- DUART_W_CSRA (R231). -/
def execDuartWCsra (v : Byte) (s : State) : Host.Outcome State Fault Refusal :=
  runWrite 0x1 v (writeClockSelect .a v) s
/-- DUART_W_CRA (R232). -/
def execDuartWCra (v : Byte) (s : State) : Host.Outcome State Fault Refusal := runWrite 0x2 v (writeCommand .a v) s
/-- DUART_W_THRA (R233). -/
def execDuartWThra (v : Byte) (s : State) : Host.Outcome State Fault Refusal := runWrite 0x3 v (writeHolding .a v) s
/-- DUART_W_ACR (R234). -/
def execDuartWAcr (v : Byte) (s : State) : Host.Outcome State Fault Refusal := runWrite 0x4 v (writeAcr v) s
/-- DUART_W_IMR (R235). -/
def execDuartWImr (v : Byte) (s : State) : Host.Outcome State Fault Refusal := runWrite 0x5 v (writeImr v) s
/-- DUART_W_CTU (R236). -/
def execDuartWCtu (v : Byte) (s : State) : Host.Outcome State Fault Refusal := runWrite 0x6 v (writeCtrHigh v) s
/-- DUART_W_CTL (R237). -/
def execDuartWCtl (v : Byte) (s : State) : Host.Outcome State Fault Refusal := runWrite 0x7 v (writeCtrLow v) s
/-- DUART_W_MRB (R238). -/
def execDuartWMrb (v : Byte) (s : State) : Host.Outcome State Fault Refusal := runWrite 0x8 v (writeMode .b v) s
/-- DUART_W_CSRB (R239). -/
def execDuartWCsrb (v : Byte) (s : State) : Host.Outcome State Fault Refusal :=
  runWrite 0x9 v (writeClockSelect .b v) s
/-- DUART_W_CRB (R240). -/
def execDuartWCrb (v : Byte) (s : State) : Host.Outcome State Fault Refusal := runWrite 0xA v (writeCommand .b v) s
/-- DUART_W_THRB (R241). -/
def execDuartWThrb (v : Byte) (s : State) : Host.Outcome State Fault Refusal := runWrite 0xB v (writeHolding .b v) s
/-- DUART_W_IVR (R242). -/
def execDuartWIvr (v : Byte) (s : State) : Host.Outcome State Fault Refusal := runWrite 0xC v (writeIvr v) s
/-- DUART_W_OPCR (R243). -/
def execDuartWOpcr (v : Byte) (s : State) : Host.Outcome State Fault Refusal := runWrite 0xD v (writeOpcr v) s
/-- DUART_W_SOPR (R244). -/
def execDuartWSopr (v : Byte) (s : State) : Host.Outcome State Fault Refusal := runWrite 0xE v (writeSetBits v) s
/-- DUART_W_ROPR (R245). -/
def execDuartWRopr (v : Byte) (s : State) : Host.Outcome State Fault Refusal := runWrite 0xF v (writeClearBits v) s

/-- The relative address of a channel's command register (R104). -/
def commandReg (c : ChanId) : BitVec 4 :=
  match c with
  | .a => 0x2
  | .b => 0xA

/-- DUART_W_WAKE (R247): in standby it clears `standby` and nothing else; outside standby the same access is the
ordinary command write of its channel (R127, R247). -/
def execDuartWWake (c : ChanId) (lo : BitVec 4) (s : State) : Host.Outcome State Fault Refusal :=
  runWrite (commandReg c) (0xD#4 ++ lo) (writeCommand c (0xD#4 ++ lo)) s

end Sys2Proof.Machine
end

