-- ==== Sys2Proof/Machine/Bus.lean ====
section
/-! DEFINITION. The bus transactions (41_bus.md) over the address decoder, the boot overlay and the DUART. -/

namespace Sys2Proof.Machine

/-! ## Byte accesses -/

/-- `io_read(a)` (R172): an even or inert address answers 0 and has no side effect. -/
def ioRead (a : BusAddr) (s : State) : Byte × State :=
  match liveReg s.params a with
  | some r => duartRead r s
  | none => (0x00, s)

/-- `io_write(a, v)` (R174). -/
def ioWrite (a : BusAddr) (v : Byte) (s : State) : State :=
  match liveReg s.params a with
  | some r => duartWrite r v s
  | none => s

/-- The offset of an address in the ROM window (R74). -/
def romOffset (p : Params) (a : BusAddr) : Nat := a.toNat - p.romBase

/-- A byte of a buffer read through the overlay, where the buffer has that byte (R83, R171). -/
def overlayRead (m : Memory) (size offset : Nat) (s : State) : Except Refusal (Byte × State) :=
  if offset < size then .ok (memRead m offset, s) else .error .overlayBeyondBuffer

/-- `read8` (R171, R83). -/
def busRead8 (a : BusAddr) (s : State) : Except Refusal (Byte × State) :=
  match regionOf s.params a with
  | .low =>
    if s.overlay then overlayRead s.rom s.params.romSize a.toNat s else .ok (memRead s.ram a.toNat, s)
  | .romWin =>
    if s.overlay then overlayRead s.ram Config.ramSize (romOffset s.params a) s
    else .ok (memRead s.rom (romOffset s.params a), s)
  | .void => .ok (0x00, s)
  | .io => .ok (ioRead a s)

/-- `write8` (R173, R83). -/
def busWrite8 (a : BusAddr) (v : Byte) (s : State) : Except Refusal State :=
  match regionOf s.params a with
  | .low => if s.overlay then .error .writeDuringOverlay else .ok (s.withRam (memWrite s.ram a.toNat v))
  | .romWin => if s.overlay then .error .writeDuringOverlay else .ok s
  | .void => .ok s
  | .io => .ok (ioWrite a v s)

/-! ## Word accesses -/

/-- `read16`: two byte reads, the lower address first and in the high byte (R175, R78). -/
def busRead16 (a : BusAddr) (s : State) : Except Refusal (Half × State) :=
  match busRead8 a s with
  | .error e => .error e
  | .ok hi =>
    match busRead8 (nextAddr a) hi.2 with
    | .error e => .error e
    | .ok lo => .ok (hi.1 ++ lo.1, lo.2)

/-- `write16`: two byte writes, the high byte first and at the lower address (R177, R78). -/
def busWrite16 (a : BusAddr) (v : Half) (s : State) : Except Refusal State :=
  match busWrite8 a (v.extractLsb' 8 8) s with
  | .error e => .error e
  | .ok s1 => busWrite8 (nextAddr a) (v.setWidth 8) s1

/-! ## Answers -/

/-- A read of the bus answers a datum, or has no meaning. -/
def answerRead {α : Type} (f : α → Reply) (r : Except Refusal (α × State)) : Host.Outcome State Fault Refusal :=
  match r with
  | .ok x => .next (x.2.withReply (f x.1))
  | .error e => .refused e

/-- A write of the bus answers nothing, or has no meaning. -/
def answerWrite (r : Except Refusal State) : Host.Outcome State Fault Refusal :=
  match r with
  | .ok s => .next (answerNothing s)
  | .error e => .refused e

/-! ## The transactions -/

/-- BUS_READ8 (R171). -/
def execBusRead8 (addr : CpuAddr) (s : State) : Host.Outcome State Fault Refusal :=
  answerRead .byte (busRead8 (mask24 addr) s)

/-- BUS_WRITE8 (R173). -/
def execBusWrite8 (addr : CpuAddr) (v : Byte) (s : State) : Host.Outcome State Fault Refusal :=
  answerWrite (busWrite8 (mask24 addr) v s)

/-- BUS_READ16 (R175). -/
def execBusRead16 (addr : CpuAddr) (s : State) : Host.Outcome State Fault Refusal :=
  answerRead .word (busRead16 (mask24 addr) s)

/-- BUS_WRITE16 (R177). -/
def execBusWrite16 (addr : CpuAddr) (v : Half) (s : State) : Host.Outcome State Fault Refusal :=
  answerWrite (busWrite16 (mask24 addr) v s)

/-- BUS_IACK_VECTOR: the controller's vector, zero-extended (R179). -/
def execBusIackVector (level : BitVec 3) (s : State) : Host.Outcome State Fault Refusal :=
  .next ((readVector level.toNat s).2.withReply (.word ((readVector level.toNat s).1.setWidth 16)))

/-! ## The CPU core's reset sequence -/

/-- One bus transaction of the CPU core's reset sequence and what it answers (R384). -/
def runBusCall (c : BusCall) (s : State) : Except Refusal (Reply × State) :=
  match c with
  | .read8 addr =>
    match busRead8 (mask24 addr) s with
    | .ok x => .ok (.byte x.1, x.2)
    | .error e => .error e
  | .read16 addr =>
    match busRead16 (mask24 addr) s with
    | .ok x => .ok (.word x.1, x.2)
    | .error e => .error e
  | .write8 addr v =>
    match busWrite8 (mask24 addr) v s with
    | .ok s1 => .ok (.nothing, s1)
    | .error e => .error e
  | .write16 addr v =>
    match busWrite16 (mask24 addr) v s with
    | .ok s1 => .ok (.nothing, s1)
    | .error e => .error e

/-- The transactions of the sequence in order, with their answers (R384). -/
def runBusCalls : List BusCall → State → Except Refusal (List Reply × State)
  | [], s => .ok ([], s)
  | c :: rest, s =>
    match runBusCall c s with
    | .error e => .error e
    | .ok x =>
      match runBusCalls rest x.2 with
      | .error e => .error e
      | .ok y => .ok (x.1 :: y.1, y.2)

end Sys2Proof.Machine
end

