-- ==== Sys2Proof/Machine/HostSteps.lean ====
section
/-! DEFINITION. The host's steps: receive injection (R283), input-port wiring (R305) and board reset (R380). -/

namespace Sys2Proof.Machine

/-- HOST_RECEIVE (R283); not gated by standby. -/
def execHostReceive (c : ChanId) (b : Byte) (s : State) : Host.Outcome State Fault Refusal :=
  .next (answerNothing (receiveByte c b s))

/-- HOST_SET_INPUT_PORT (R305); not gated by standby. -/
def execHostSetInputPort (v : Byte) (s : State) : Host.Outcome State Fault Refusal :=
  .next (answerNothing (s.withDuart (s.duart.setInput v)))

/-- BOARD_RESET (R380): the controller's reset, then the CPU core's reset sequence under the boot overlay. -/
def execBoardReset (s : State) : Host.Outcome State Fault Refusal :=
  match runBusCalls s.params.cpuResetSeq ((controllerReset s).withOverlay true) with
  | .error e => .refused e
  | .ok x => .next (answerNothing ((x.2.withOverlay false).withResetReads x.1))

end Sys2Proof.Machine
end

