-- ==== Sys2Proof/Machine/Construct.lean ====
section
/-! DEFINITION. Construction of the board (R31 to R50, R386) and power-on (R385). -/

namespace Sys2Proof.Machine

/-- Bind a source at a level of 1..7, as construction does (R36). -/
def bindAt (src : SourceId) (level : Nat) (slots : Vector (Option Slot) 7) : Vector (Option Slot) 7 :=
  match levelIndex level with
  | some i => slots.set i.val (some ⟨src, true⟩) i.isLt
  | none => slots

/-- The slots at construction (R36): the DUART at its level, each extra source at its own, all enabled. -/
def constructedSlots (p : Params) : Vector (Option Slot) 7 :=
  p.extraSources.foldl (fun v e => bindAt (.extra e.1) e.2 v)
    (bindAt .duart p.duartLevel (Vector.replicate 7 none))

/-- A buffer's content, `none` where the host could not supply it (R386). -/
abbrev Backing := Option Memory

/-- The board as constructed from its parameters, `RAM_INIT` and `ROM_IMAGE`. -/
def constructed (p : Params) (ram rom : Memory) : State :=
  { params := p, ram := ram, rom := rom, overlay := false, slots := constructedSlots p, duart := .initial p,
    txTrace := [], resetTrace := [], env := .initial, reply := .nothing, ipl := 0, resetReads := [], pending := [] }

/-- Construction: refused for parameters that break rule R8 and for a missing buffer (R386). A content that is not a
canonical list of bytes of the buffer is no content of it. -/
def construct (p : Params) (ram rom : Backing) : Host.Outcome State Fault Refusal :=
  match ram, rom with
  | some m, some r =>
    if p.valid then
      if m.wf && m.below Config.ramSize && r.wf && r.below p.romSize then .next (constructed p m r)
      else .refused .noBackingStore
    else .refused .badParameters
  | _, _ => .refused .noBackingStore

/-- Power-on (R385): construction, then one board reset. -/
def powerOn (p : Params) (ram rom : Backing) : Host.Outcome State Fault Refusal :=
  match construct p ram rom with
  | .next s => execBoardReset s
  | .fault e => .fault e
  | .refused e => .refused e

end Sys2Proof.Machine
end

