-- ==== Sys2Proof/Machine/Controller.lean ====
section
/-! DEFINITION. The interrupt controller's calls (40_controller.md). -/

namespace Sys2Proof.Machine

/-- IC_SOURCE_ADD (R141). -/
def execIcSourceAdd (src : SourceId) (level : Int) (s : State) : Host.Outcome State Fault Refusal :=
  .next (addSource src level s)

/-- IC_SOURCE_REMOVE_LEVEL (R142). -/
def execIcSourceRemoveLevel (level : Int) (s : State) : Host.Outcome State Fault Refusal :=
  .next (removeAt (findLevel s.slots level) s)

/-- IC_SOURCE_REMOVE_SRC (R142). -/
def execIcSourceRemoveSrc (src : SourceId) (s : State) : Host.Outcome State Fault Refusal :=
  .next (removeAt (findSource s.slots src) s)

/-- IC_POLL (R143): the level is the answer, and what the run loop sets on the CPU core (R180). -/
def execIcPoll (s : State) : Host.Outcome State Fault Refusal :=
  .next (((pollInterrupt s).2.withIpl (pollInterrupt s).1).withReply (.level (pollInterrupt s).1))

/-- IC_SOURCE_ENABLE_LEVEL (R144). -/
def execIcSourceEnableLevel (level : Int) (s : State) : Host.Outcome State Fault Refusal :=
  .next (setEnabledAt (findLevel s.slots level) true s)

/-- IC_SOURCE_ENABLE_SRC (R144). -/
def execIcSourceEnableSrc (src : SourceId) (s : State) : Host.Outcome State Fault Refusal :=
  .next (setEnabledAt (findSource s.slots src) true s)

/-- IC_SOURCE_DISABLE_LEVEL (R145). -/
def execIcSourceDisableLevel (level : Int) (s : State) : Host.Outcome State Fault Refusal :=
  .next (setEnabledAt (findLevel s.slots level) false s)

/-- IC_SOURCE_DISABLE_SRC (R145). -/
def execIcSourceDisableSrc (src : SourceId) (s : State) : Host.Outcome State Fault Refusal :=
  .next (setEnabledAt (findSource s.slots src) false s)

/-- IC_READ_VECTOR (R146). -/
def execIcReadVector (level : Int) (s : State) : Host.Outcome State Fault Refusal :=
  .next (answerByte (readVector level s))

/-- IC_RESET (R147). -/
def execIcReset (s : State) : Host.Outcome State Fault Refusal :=
  .next (answerNothing (controllerReset s))

end Sys2Proof.Machine
end

