-- ==== Sys2Proof/Machine/Dispatch.lean ====
section
/-! DEFINITION. One arm per row of spec/opcode_table.json, each one direct call of its meaning. -/

namespace Sys2Proof.Machine

def exec (i : Instr) (s : State) : Host.Outcome State Fault Refusal :=
  match i with
  | .duartRMra => Sys2Proof.Machine.execDuartRMra s
  | .duartRSra => Sys2Proof.Machine.execDuartRSra s
  | .duartRMisr => Sys2Proof.Machine.execDuartRMisr s
  | .duartRRhra => Sys2Proof.Machine.execDuartRRhra s
  | .duartRIpcr => Sys2Proof.Machine.execDuartRIpcr s
  | .duartRIsr => Sys2Proof.Machine.execDuartRIsr s
  | .duartRCtu => Sys2Proof.Machine.execDuartRCtu s
  | .duartRCtl => Sys2Proof.Machine.execDuartRCtl s
  | .duartRMrb => Sys2Proof.Machine.execDuartRMrb s
  | .duartRSrb => Sys2Proof.Machine.execDuartRSrb s
  | .duartRNoneA => Sys2Proof.Machine.execDuartRNoneA s
  | .duartRRhrb => Sys2Proof.Machine.execDuartRRhrb s
  | .duartRIvr => Sys2Proof.Machine.execDuartRIvr s
  | .duartRIp => Sys2Proof.Machine.execDuartRIp s
  | .duartRStart => Sys2Proof.Machine.execDuartRStart s
  | .duartRStop => Sys2Proof.Machine.execDuartRStop s
  | .duartWMra v => Sys2Proof.Machine.execDuartWMra v s
  | .duartWCsra v => Sys2Proof.Machine.execDuartWCsra v s
  | .duartWCra v => Sys2Proof.Machine.execDuartWCra v s
  | .duartWThra v => Sys2Proof.Machine.execDuartWThra v s
  | .duartWAcr v => Sys2Proof.Machine.execDuartWAcr v s
  | .duartWImr v => Sys2Proof.Machine.execDuartWImr v s
  | .duartWCtu v => Sys2Proof.Machine.execDuartWCtu v s
  | .duartWCtl v => Sys2Proof.Machine.execDuartWCtl v s
  | .duartWMrb v => Sys2Proof.Machine.execDuartWMrb v s
  | .duartWCsrb v => Sys2Proof.Machine.execDuartWCsrb v s
  | .duartWCrb v => Sys2Proof.Machine.execDuartWCrb v s
  | .duartWThrb v => Sys2Proof.Machine.execDuartWThrb v s
  | .duartWIvr v => Sys2Proof.Machine.execDuartWIvr v s
  | .duartWOpcr v => Sys2Proof.Machine.execDuartWOpcr v s
  | .duartWSopr v => Sys2Proof.Machine.execDuartWSopr v s
  | .duartWRopr v => Sys2Proof.Machine.execDuartWRopr v s
  | .duartWWake c lo => Sys2Proof.Machine.execDuartWWake c lo s
  | .busRead8 addr => Sys2Proof.Machine.execBusRead8 addr s
  | .busWrite8 addr v => Sys2Proof.Machine.execBusWrite8 addr v s
  | .busRead16 addr => Sys2Proof.Machine.execBusRead16 addr s
  | .busWrite16 addr v => Sys2Proof.Machine.execBusWrite16 addr v s
  | .busIackVector level => Sys2Proof.Machine.execBusIackVector level s
  | .icSourceAdd src level => Sys2Proof.Machine.execIcSourceAdd src level s
  | .icSourceRemoveLevel level => Sys2Proof.Machine.execIcSourceRemoveLevel level s
  | .icSourceRemoveSrc src => Sys2Proof.Machine.execIcSourceRemoveSrc src s
  | .icPoll => Sys2Proof.Machine.execIcPoll s
  | .icSourceEnableLevel level => Sys2Proof.Machine.execIcSourceEnableLevel level s
  | .icSourceEnableSrc src => Sys2Proof.Machine.execIcSourceEnableSrc src s
  | .icSourceDisableLevel level => Sys2Proof.Machine.execIcSourceDisableLevel level s
  | .icSourceDisableSrc src => Sys2Proof.Machine.execIcSourceDisableSrc src s
  | .icReadVector level => Sys2Proof.Machine.execIcReadVector level s
  | .icReset => Sys2Proof.Machine.execIcReset s
  | .hostReceive c b => Sys2Proof.Machine.execHostReceive c b s
  | .hostSetInputPort v => Sys2Proof.Machine.execHostSetInputPort v s
  | .boardReset => Sys2Proof.Machine.execBoardReset s

end Sys2Proof.Machine
end

