-- ==== Sys2Proof/Machine/Fetch.lean ====
section
/-! DEFINITION. How the block comes to its next transaction: it takes the oldest one presented (R5, R85). -/

namespace Sys2Proof.Machine

/-- Run the transaction a frame presents; a frame that presents none is refused. -/
def runFrame (f : Frame) (s : State) : Host.Outcome State Fault Refusal :=
  match decode f with
  | .ok i => exec i s
  | .error e => .refused (.undecodableFrame e)

/-- Take the oldest presented transaction and run it. With none presented nothing happens: the block takes no step of
its own (R5). -/
def runOldest (s : State) : Host.Outcome State Fault Refusal :=
  match s.pending with
  | [] => .next s
  | f :: rest => runFrame f (s.withPending rest)

/-- Present a transaction ahead of all others. -/
def presentFirst (f : Frame) (s : State) : State := s.withPending (f :: s.pending)

end Sys2Proof.Machine
end

