-- ==== Sys2Proof/Machine/Step.lean ====
section
/-! DEFINITION. One step of the machine: one transaction of one agent (00_scope.md R6). -/

namespace Sys2Proof.Machine

/-- One step: the oldest presented transaction, atomically (R6). -/
def step (s : State) : Host.Outcome State Fault Refusal := runOldest s

/-- The state in which the next step runs the transaction whose bits are `w`. -/
def State.withFetchWord (s : State) (nbits w : Nat) : State := presentFirst (frameOfTableWord nbits w) s

end Sys2Proof.Machine
end

