-- ==== Sys2Proof/Machine/RunLoop.lean ====
section
/-! DEFINITION. The run loop that couples the block to the CPU core (41_bus.md R180, R181): a poll before each CPU step,
then the bus transactions that the CPU core, which is outside the block, issues in that step. -/

namespace Sys2Proof.Machine

/-- The transactions of one CPU step, in program order. -/
def runAll : List Instr → State → Host.Outcome State Fault Refusal
  | [], s => .next s
  | i :: rest, s =>
    match exec i s with
    | .next s1 => runAll rest s1
    | .fault e => .fault e
    | .refused e => .refused e

/-- One run-loop step (R180): poll, set the level on the CPU core (`ipl`), then one CPU step. -/
def runLoopStep (cpuStep : List Instr) (s : State) : Host.Outcome State Fault Refusal :=
  runAll (.icPoll :: cpuStep) s

/-- `run(N)` for the N CPU steps given (R181). -/
def runLoop : List (List Instr) → State → Host.Outcome State Fault Refusal
  | [], s => .next s
  | st :: rest, s =>
    match runLoopStep st s with
    | .next s1 => runLoop rest s1
    | .fault e => .fault e
    | .refused e => .refused e

/-- What the CPU core asks of the block when it takes an interrupt at a level (R347): the vector read in `external`
mode, nothing in `autovector` mode. -/
def acknowledgeCalls (p : Params) (level : BitVec 3) : List Instr :=
  match p.vectorMode with
  | .external => [.busIackVector level]
  | .autovector => []

end Sys2Proof.Machine
end

