-- ==== Sys2Proof/Safety.lean ====
section
/-! DEFINITION. What a good state is, and the conditions the statements use. -/

namespace Sys2Proof.Machine

/-- The channel invariant (R48, R285). -/
abbrev Channel.Inv (c : Channel) : Prop := c.fifo.length ≤ Config.fifoCap

/-- The timer invariant: a running timer has a non-negative interval and its deadlines in order (R310, R313, R315). -/
abbrev Timer.Inv (t : Timer) : Prop := t.started = true → 0 ≤ t.interval ∧ t.cur ≤ t.next

/-- The chip invariant: the input port and its change bits have six significant bits (R42, R43). -/
abbrev Duart.Inv (d : Duart) : Prop :=
  d.ipValue.toNat < 64 ∧ d.ipChanges.toNat < 64 ∧ d.timer.Inv ∧ d.chanA.Inv ∧ d.chanB.Inv

/-- The machine between two transactions: legal parameters (R8), no overlay (R33), both buffers canonical lists of
their own bytes (R31, R32), a clock reading that is a time (R310), and a good chip. -/
abbrev State.Inv (s : State) : Prop :=
  s.params.valid = true ∧ s.overlay = false ∧ s.ram.wf = true ∧ s.ram.below Config.ramSize = true ∧
    s.rom.wf = true ∧ s.rom.below s.params.romSize = true ∧ 0 ≤ s.env.clock ∧ s.duart.Inv

/-! ## The accesses of one channel (R104) -/

/-- The read of channel `c`'s mode register. -/
def modeReadOf (c : ChanId) : Instr := match c with | .a => .duartRMra | .b => .duartRMrb
/-- The read of channel `c`'s status register. -/
def statusReadOf (c : ChanId) : Instr := match c with | .a => .duartRSra | .b => .duartRSrb
/-- The read of channel `c`'s receive holding register. -/
def holdingReadOf (c : ChanId) : Instr := match c with | .a => .duartRRhra | .b => .duartRRhrb
/-- The write of channel `c`'s mode register. -/
def modeWriteOf (c : ChanId) (v : Byte) : Instr := match c with | .a => .duartWMra v | .b => .duartWMrb v
/-- The write of channel `c`'s clock-select latch. -/
def clockSelectOf (c : ChanId) (v : Byte) : Instr := match c with | .a => .duartWCsra v | .b => .duartWCsrb v
/-- The write of channel `c`'s command register. -/
def commandOf (c : ChanId) (v : Byte) : Instr := match c with | .a => .duartWCra v | .b => .duartWCrb v
/-- The write of channel `c`'s transmit holding register. -/
def holdingWriteOf (c : ChanId) (v : Byte) : Instr := match c with | .a => .duartWThra v | .b => .duartWThrb v

/-! ## The controller's scan -/

/-- The slots that bind an enabled source, among the given ones. -/
def enabledSlots (slots : Vector (Option Slot) 7) (order : List (Fin 7)) : List (Fin 7) :=
  order.filter (fun i => match slots.get i with | some sl => sl.enabled | none => false)

/-- One poll of the source that a slot binds: its answer and what the poll leaves (R143). -/
def pollAt (slots : Vector (Option Slot) 7) (i : Fin 7) (s : State) : Bool × State :=
  match slots.get i with
  | some sl => pollSource sl.src s
  | none => (false, s)

/-- The machine after one poll of each of the given slots, in order (R143). -/
def afterPolls (slots : Vector (Option Slot) 7) (order : List (Fin 7)) (s : State) : State :=
  order.foldl (fun u i => (pollAt slots i u).2) s

/-- The extra source a slot binds, if it binds one. -/
def extraIn (slot : Option Slot) : Option Byte :=
  match slot with
  | some ⟨.extra k, _⟩ => some k
  | _ => none

/-- Whether some slot binds the DUART. -/
def duartBound (slots : Vector (Option Slot) 7) : Prop := ∃ i : Fin 7, bindsSource .duart (slots.get i) = true

/-! ## Conditions on a transaction -/

/-- The CPU core's reset sequence only reads, and every address it reads is below `n` (R384). -/
def readsBelow (n : Nat) : BusCall → Prop
  | .read8 addr => (mask24 addr).toNat < n
  | .read16 addr => (mask24 addr).toNat + 1 < n
  | .write8 _ _ => False
  | .write16 _ _ => False

/-- The transactions that can move the counter/timer (R319): its start and stop, the evaluations of the ISR, the bus
calls that can reach those registers, and the resets. -/
def mayMoveTimer : Instr → Bool
  | .duartRStart | .duartRStop | .duartRIsr | .duartRMisr | .icPoll => true
  | .busRead8 _ | .busRead16 _ | .icReset | .boardReset => true
  | _ => false

/-- The DUART accesses and host steps that act on channel `c` alone (R260). -/
def actsOnChannel (c : ChanId) (i : Instr) : Prop :=
  i = modeReadOf c ∨ i = statusReadOf c ∨ i = holdingReadOf c ∨
    (∃ v, i = modeWriteOf c v ∨ i = clockSelectOf c v ∨ i = commandOf c v ∨ i = holdingWriteOf c v) ∨
    ∃ b, i = .hostReceive c b

/-- The host steps that can fall inside a CPU step, between the two byte halves of a word access (R81, D31). -/
def fallsBetweenHalves (i : Instr) : Prop := (∃ c b, i = .hostReceive c b) ∨ ∃ v, i = .hostSetInputPort v

/-- Present the same host step once for each byte, in order. -/
def receiveAll (c : ChanId) (bytes : List Byte) (s : State) : Host.Outcome State Fault Refusal :=
  runAll (bytes.map (fun b => .hostReceive c b)) s

/-- What successive reads of a register answer. -/
def answersOf : List Instr → State → List Reply
  | [], _ => []
  | i :: rest, s =>
    match exec i s with
    | .next t => t.reply :: answersOf rest t
    | _ => []

end Sys2Proof.Machine
end

