-- ==== Sys2Proof/Certificates/Slice0/Obligations.lean ====
section
/-! DEFINITION. The statements for the provers. A read "returns" its value in the field `reply`, the model's record of
a transaction's answer (notes/assumptions/3.md); `s.withX y` is `s` with the one field `X` replaced, so an equation
`exec i s = .next (…)` also says that nothing else changes. -/

open Sys2Proof Sys2Proof.Machine

/-! ## The step and the encoding -/

/-- A step runs the oldest presented transaction on the state without it; a frame that presents none is refused; with
nothing presented nothing changes. Presenting transactions as frames is the model's choice (notes/assumptions/1.md). -/
def Obligations.StepRunsTheOldestPresentedTransaction : Prop :=
  ∀ s : State,
    (s.pending = [] → step s = .next s) ∧
    ∀ (f : Frame) (rest : List Frame), s.pending = f :: rest →
      (∀ i, decode f = .ok i → step s = exec i (s.withPending rest)) ∧
      (∀ e, decode f = .error e → step s = .refused (.undecodableFrame e))



/-- The access code of a register (R100): a read of register `r` is code `r`, a write of it `0x10 | r`, whose data byte
follows (the model's frame, notes/assumptions/1.md); and a few words written out from R100 and from the wake format of
R127. -/
def Obligations.AccessCodesNameTheRegisters : Prop :=
  (∀ (r : BitVec 4) (v : Byte),
    decode [r.setWidth 8] = .ok (readInstr r) ∧
    decode [0x10 ||| r.setWidth 8, v] = .ok (writeInstr r v)) ∧
  decodeTableWord 8 0b00000 = some .duartRMra ∧
  decodeTableWord 8 0b01110 = some .duartRStart ∧
  decodeTableWord 8 0b11101 = some (.duartWOpcr 0) ∧
  decodeTableWord 16 0b10010_11010000 = some (.duartWWake .a 0) ∧
  decodeTableWord 16 0b11010_11010101 = some (.duartWWake .b 5) ∧
  decode [0b10010, 0x15] = .ok (.duartWCra 0x15)

/-- Decoding an encoded well-formed transaction gives it back, for every row and every operand. -/
def Obligations.DecodeOfEncodeIsTheTransaction : Prop :=
  ∀ i : Instr, i.wf = true → decode (encode i) = .ok i

/-- A frame that decodes is the encoding of the transaction it decodes to, with zero bytes after it: each frame has
one meaning and no byte of it is dropped. -/
def Obligations.DecodedFrameIsItsEncodingAndZeros : Prop :=
  ∀ (f : Frame) (i : Instr), decode f = .ok i →
    i.wf = true ∧ ∃ n, f = encode i ++ List.replicate n 0

/-! ## Reset, construction, invariant -/

/-- `State.Inv` holds of the machine right after reset. -/
def Obligations.ResetMeetsTheInvariant : Prop := State.reset.Inv

/-- Every step keeps `State.Inv`: legal parameters, no overlay between transactions, canonical memories inside their
buffers, six-bit input port, FIFOs of at most 255 bytes, the timer's deadlines in order. -/
def Obligations.EveryStepKeepsTheInvariant : Prop :=
  ∀ s t : State, s.Inv → step s = .next t → t.Inv




/-- Construction (R8, R31 to R50, R386). Legal parameters with two buffers of bytes do construct. A board that is
constructed has legal parameters, its two memories as given, the construction values of R33 to R50, the DUART and the
extra sources bound enabled at their levels and nothing bound elsewhere, and meets the invariant. Parameters that are
not legal, and a missing ROM image or RAM, are refused. Legal is R8; that the I/O window is not empty, that an extra
source's level is in 1..7 and that none is named twice is the model's reading (notes/assumptions/11.md). -/
def Obligations.ConstructionGivesAGoodBoardOrIsRefused : Prop :=
  (∀ p : Params, p.valid = true ↔
    0x0FFFFF < p.romBase ∧ p.romBase + p.romSize - 1 < p.ioBase ∧ p.ioBase ≤ 0xFFFFFF ∧
      (1 ≤ p.duartLevel ∧ p.duartLevel ≤ 7) ∧ (∀ e ∈ p.extraSources, 1 ≤ e.2 ∧ e.2 ≤ 7) ∧
      (p.duartLevel :: p.extraSources.map (fun e => e.2)).Nodup ∧ (p.extraSources.map (fun e => e.1)).Nodup) ∧
  (∀ (p : Params) (ram rom : Memory), p.valid = true → ram.wf = true → ram.below 0x100000 = true → rom.wf = true →
    rom.below p.romSize = true → ∃ s, construct p (some ram) (some rom) = .next s) ∧
  (∀ (p : Params) (ram rom : Backing) (s : State), construct p ram rom = .next s →
    s.Inv ∧ s.params = p ∧ some s.ram = ram ∧ some s.rom = rom ∧ s.overlay = false ∧ s.txTrace = [] ∧
    (s.duart.ivr = 0x0F ∧ s.duart.imr = 0x00 ∧ s.duart.acr = 0x00 ∧ s.duart.ctr = 0x0000 ∧ s.duart.opr = 0x00 ∧
      s.duart.ipValue = p.ipInit.setWidth 8 ∧ s.duart.ipChanges = 0x00 ∧ s.duart.standby = p.standbyInit ∧
      s.duart.timer.started = false ∧ s.duart.timer.ack = false ∧
      ∀ c, s.chan c =
        { rxEn := false, txEn := false, fifo := [], mrPtr := 0, mr0 := 0x00, mr1 := 0x00, csr := 0x00 }) ∧
    (∀ i : Fin 7, i.val + 1 = p.duartLevel → s.slots.get i = some ⟨.duart, true⟩) ∧
    (∀ e ∈ p.extraSources, ∀ i : Fin 7, i.val + 1 = e.2 → s.slots.get i = some ⟨.extra e.1, true⟩) ∧
    (∀ i : Fin 7, i.val + 1 ≠ p.duartLevel → (∀ e ∈ p.extraSources, i.val + 1 ≠ e.2) → s.slots.get i = none)) ∧
  ∀ (p : Params) (ram rom : Memory),
    (p.valid = false → construct p (some ram) (some rom) = .refused .badParameters) ∧
    construct p none (some rom) = .refused .noBackingStore ∧
    construct p (some ram) none = .refused .noBackingStore

/-- Power-on (R385): construction, and refused where it is; then one board reset. With the CPU core's default reset
sequence (the model's, notes/assumptions/5.md) and at least 8 bytes of ROM it gives a good board with the parameters,
buffers, slots and chip of construction, whose CPU core read ROM bytes 0..7 and whose first poll reports level 0 if
there is no extra source. -/
def Obligations.PowerOnConstructsThenResetsTheBoard : Prop :=
  (∀ (p : Params) (ram rom : Backing) (e : Refusal),
    construct p ram rom = .refused e → powerOn p ram rom = .refused e) ∧
  ∀ (p : Params) (ram rom : Memory) (s : State), construct p (some ram) (some rom) = .next s →
    powerOn p (some ram) (some rom) = exec .boardReset s ∧
    (p.cpuResetSeq = [.read16 0, .read16 2, .read16 4, .read16 6] → 8 ≤ p.romSize →
      ∃ t, powerOn p (some ram) (some rom) = .next t ∧ t.Inv ∧
        t.params = p ∧ t.ram = ram ∧ t.rom = rom ∧ t.slots = s.slots ∧ t.duart = s.duart ∧ t.txTrace = [] ∧
        t.resetReads =
          [.word (memRead rom 0 ++ memRead rom 1), .word (memRead rom 2 ++ memRead rom 3),
           .word (memRead rom 4 ++ memRead rom 5), .word (memRead rom 6 ++ memRead rom 7)] ∧
        (p.extraSources = [] → ∃ u, exec .icPoll t = .next u ∧ u.reply = .level 0))

/-! ## DUART reads outside standby -/

/-- Reads of the counter/timer bytes, the vector register, the input port and address 0xA (R206, R207, R212, R213,
R210): DUART_R_CTU, DUART_R_CTL, DUART_R_IVR, DUART_R_IP, DUART_R_NONE_A. -/
def Obligations.PlainReadsAnswerTheRegister : Prop :=
  ∀ s : State, s.duart.standby = false →
    exec .duartRCtu s = .next (s.withReply (.byte (s.duart.ctr.extractLsb' 8 8))) ∧
    exec .duartRCtl s = .next (s.withReply (.byte (s.duart.ctr.extractLsb' 0 8))) ∧
    exec .duartRIvr s = .next (s.withReply (.byte s.duart.ivr)) ∧
    exec .duartRIp s = .next (s.withReply (.byte s.duart.ipValue)) ∧
    exec .duartRNoneA s = .next (s.withReply (.byte 0x00))

/-- The status register of a channel (R262): DUART_R_SRA, DUART_R_SRB. -/
def Obligations.StatusReadComposesTheFlags : Prop :=
  ∀ (s : State) (c : ChanId), s.duart.standby = false →
    exec (statusReadOf c) s = .next (s.withReply (.byte
      ((if (s.chan c).txEn then 0x0C else 0x00) ||| (if 2 < (s.chan c).fifo.length then 0x02 else 0x00)
        ||| (if 0 < (s.chan c).fifo.length then 0x01 else 0x00))))

/-- The mode register of a channel (R261): the register at the pointer, which then is 1: DUART_R_MRA, DUART_R_MRB. -/
def Obligations.ModeReadAdvancesThePointer : Prop :=
  ∀ (s : State) (c : ChanId), s.duart.standby = false →
    exec (modeReadOf c) s = .next ((s.setChan c { s.chan c with mrPtr := 1 }).withReply
      (.byte (if (s.chan c).mrPtr = 0 then (s.chan c).mr0 else (s.chan c).mr1)))

/-- The receive holding register of a channel (R263): the oldest byte leaves, 0 if there is none: DUART_R_RHRA,
DUART_R_RHRB. -/
def Obligations.HoldingReadPopsTheOldestByte : Prop :=
  ∀ (s : State) (c : ChanId), s.duart.standby = false →
    ((s.chan c).fifo = [] → exec (holdingReadOf c) s = .next (s.withReply (.byte 0x00))) ∧
    (∀ b rest, (s.chan c).fifo = b :: rest →
      exec (holdingReadOf c) s = .next ((s.setChan c { s.chan c with fifo := rest }).withReply (.byte b)))

/-- The input port change register (R204): changes in bits 7..4, the port in bits 3..0; every change bit is cleared:
DUART_R_IPCR. -/
def Obligations.IpcrReadAnswersAndClearsTheChanges : Prop :=
  ∀ s : State, s.duart.standby = false →
    ∃ v : Byte,
      exec .duartRIpcr s = .next ((s.withDuart { s.duart with ipChanges := 0x00 }).withReply (.byte v)) ∧
      ∀ k, k < 4 → v.getLsbD k = s.duart.ipValue.getLsbD k ∧ v.getLsbD (k + 4) = s.duart.ipChanges.getLsbD k

/-- The interrupt status and its masked form (R202, R205, R303): one clock draw, one timer check, and the eight bits
of the answer, each by its condition (R300): DUART_R_ISR, DUART_R_MISR. -/
def Obligations.IsrReadsComposeTheConditions : Prop :=
  ∀ s : State, s.duart.standby = false →
    ∃ (isr : Byte) (t : State),
      t = (s.withEnv s.env.drawNow.2).withDuart
        { s.duart with timer := (timerCheck s.params.timerAckOnAdvance s.env.drawNow.1 s.duart.timer).2 } ∧
      exec .duartRIsr s = .next (t.withReply (.byte isr)) ∧
      exec .duartRMisr s = .next (t.withReply (.byte (isr &&& s.duart.imr))) ∧
      isr.getLsbD 0 = s.duart.chanA.txEn ∧
      isr.getLsbD 1 = decide (s.duart.chanA.fifo ≠ []) ∧
      isr.getLsbD 2 = false ∧
      isr.getLsbD 3 = (timerCheck s.params.timerAckOnAdvance s.env.drawNow.1 s.duart.timer).1 ∧
      isr.getLsbD 4 = s.duart.chanB.txEn ∧
      isr.getLsbD 5 = decide (s.duart.chanB.fifo ≠ []) ∧
      isr.getLsbD 6 = false ∧
      isr.getLsbD 7 = decide (∃ k : Fin 4, s.duart.ipChanges.getLsbD k.val = true ∧ s.duart.acr.getLsbD k.val = true)

/-- The read that starts the timer (R214, R313): in a crystal mode with a reload value other than 0 the deadlines are
one and two intervals from now; otherwise only `t_started` is cleared. It answers 0: DUART_R_START. -/
def Obligations.StartReadStartsOrStopsTheTimer : Prop :=
  ∀ s : State, s.duart.standby = false →
    (∀ d : Nat, (s.duart.acr.extractLsb' 4 3 = 0b110#3 ∧ d = 1 ∨ s.duart.acr.extractLsb' 4 3 = 0b111#3 ∧ d = 16) →
      s.duart.ctr ≠ 0 →
      exec .duartRStart s = .next (((s.withEnv s.env.drawNow.2).withDuart { s.duart with timer :=
        { started := true, interval := timerInterval s.params.intervalQuant d s.duart.ctr,
          cur := s.env.drawNow.1 + timerInterval s.params.intervalQuant d s.duart.ctr,
          next := s.env.drawNow.1 + timerInterval s.params.intervalQuant d s.duart.ctr
            + timerInterval s.params.intervalQuant d s.duart.ctr,
          ack := false } }).withReply (.byte 0x00))) ∧
    ((s.duart.acr.extractLsb' 4 3 ≠ 0b110#3 ∧ s.duart.acr.extractLsb' 4 3 ≠ 0b111#3 ∨ s.duart.ctr = 0) →
      exec .duartRStart s = .next (((s.withEnv s.env.drawNow.2).withDuart
        { s.duart with timer := { s.duart.timer with started := false } }).withReply (.byte 0x00)))

/-- The read that stops the timer marks the period acknowledged and changes no deadline (R215, R316): DUART_R_STOP. -/
def Obligations.StopReadAcknowledgesThePeriod : Prop :=
  ∀ s : State, s.duart.standby = false →
    exec .duartRStop s = .next ((s.withDuart
      { s.duart with timer := { s.duart.timer with ack := true } }).withReply (.byte 0x00))

/-! ## DUART writes outside standby -/

/-- Writes of the auxiliary control, mask, counter/timer and vector registers, and the ignored write of the output
configuration (R234 to R237, R242, R243): DUART_W_ACR, DUART_W_IMR, DUART_W_CTU, DUART_W_CTL, DUART_W_IVR,
DUART_W_OPCR. -/
def Obligations.PlainWritesStoreTheRegister : Prop :=
  ∀ (s : State) (v : Byte), s.duart.standby = false →
    exec (.duartWAcr v) s = .next ((s.withDuart { s.duart with acr := v }).withReply .nothing) ∧
    exec (.duartWImr v) s = .next ((s.withDuart { s.duart with imr := v }).withReply .nothing) ∧
    exec (.duartWCtu v) s =
      .next ((s.withDuart { s.duart with ctr := v ++ s.duart.ctr.extractLsb' 0 8 }).withReply .nothing) ∧
    exec (.duartWCtl v) s =
      .next ((s.withDuart { s.duart with ctr := s.duart.ctr.extractLsb' 8 8 ++ v }).withReply .nothing) ∧
    exec (.duartWIvr v) s = .next ((s.withDuart { s.duart with ivr := v }).withReply .nothing) ∧
    exec (.duartWOpcr v) s = .next (s.withReply .nothing)

/-- The writes of the output port (R244, R245, R249): the register, and the pins: a set bit drives its pin low, a
cleared bit drives it high, every other pin stands: DUART_W_SOPR, DUART_W_ROPR. -/
def Obligations.OutputWritesDriveTheSelectedPins : Prop :=
  ∀ (s : State) (v : Byte), s.duart.standby = false →
    (∃ t, exec (.duartWSopr v) s = .next t ∧
      t = (s.withDuart { s.duart with opr := s.duart.opr ||| v }).withReply .nothing ∧
      ∀ k, k < 8 → (outputPins t.duart).getLsbD k = (!v.getLsbD k && (outputPins s.duart).getLsbD k)) ∧
    (∃ t, exec (.duartWRopr v) s = .next t ∧
      t = (s.withDuart { s.duart with opr := s.duart.opr &&& ~~~v }).withReply .nothing ∧
      ∀ k, k < 8 → (outputPins t.duart).getLsbD k = (v.getLsbD k || (outputPins s.duart).getLsbD k))



/-- The mode register write stores at the pointer, which then is 1 (R270), and the clock-select write stores its latch
and nothing else (R271): DUART_W_MRA, DUART_W_MRB, DUART_W_CSRA, DUART_W_CSRB. -/
def Obligations.ModeAndClockSelectWritesStoreTheirByte : Prop :=
  ∀ (s : State) (c : ChanId) (v : Byte), s.duart.standby = false →
    ((s.chan c).mrPtr = 0 →
      exec (modeWriteOf c v) s = .next ((s.setChan c { s.chan c with mr0 := v, mrPtr := 1 }).withReply .nothing)) ∧
    ((s.chan c).mrPtr = 1 →
      exec (modeWriteOf c v) s = .next ((s.setChan c { s.chan c with mr1 := v, mrPtr := 1 }).withReply .nothing)) ∧
    exec (clockSelectOf c v) s = .next ((s.setChan c { s.chan c with csr := v }).withReply .nothing)

/-- The command write, for a byte in which no pair has both bits set (R272 to R280): the enable bits first, then the
command: DUART_W_CRA, DUART_W_CRB. -/
def Obligations.CommandWriteAppliesEnablesThenCommand : Prop :=
  ∀ (s : State) (c : ChanId) (v : Byte) (ch : Channel), s.duart.standby = false →
    (v.getLsbD 0 && v.getLsbD 1) = false → (v.getLsbD 2 && v.getLsbD 3) = false →
    ch = { s.chan c with
      rxEn := if v.getLsbD 0 then true else if v.getLsbD 1 then false else (s.chan c).rxEn,
      txEn := if v.getLsbD 2 then true else if v.getLsbD 3 then false else (s.chan c).txEn } →
    (v.extractLsb' 4 4 = 0x1#4 →
      exec (commandOf c v) s = .next ((s.setChan c { ch with mrPtr := 0 }).withReply .nothing)) ∧
    (v.extractLsb' 4 4 = 0x2#4 →
      exec (commandOf c v) s = .next ((s.setChan c { ch with rxEn := false, fifo := [] }).withReply .nothing)) ∧
    (v.extractLsb' 4 4 = 0xC#4 → s.params.cmdCEntersStandby = true →
      exec (commandOf c v) s =
        .next ((s.withDuart { s.duart.setChan c ch with standby := true }).withReply .nothing)) ∧
    (v.extractLsb' 4 4 ≠ 0x1#4 → v.extractLsb' 4 4 ≠ 0x2#4 →
      (v.extractLsb' 4 4 = 0xC#4 → s.params.cmdCEntersStandby = false) →
      exec (commandOf c v) s = .next ((s.setChan c ch).withReply .nothing))

/-- A command byte with both bits of a pair set leaves that enable flag to a draw (R275), for every such byte: the
receiver's pair first, then the transmitter's, each a draw of its own where both its bits are set and otherwise set,
cleared or kept (R272); then the command (R280). And a draw can be either value: it is whatever Bool the environment
supplies next. That draws come from `env` is the model's form (notes/assumptions/4.md). DUART_W_CRA, DUART_W_CRB. -/
def Obligations.BothEnableBitsLeaveTheFlagToADraw : Prop :=
  (∀ (s : State) (c : ChanId) (v : Byte) (rx tx : Bool × Env) (ch : Channel), s.duart.standby = false →
    (v.getLsbD 0 && v.getLsbD 1 || v.getLsbD 2 && v.getLsbD 3) = true →
    rx = (if v.getLsbD 0 && v.getLsbD 1 then s.env.drawBool
      else (if v.getLsbD 0 then true else if v.getLsbD 1 then false else (s.chan c).rxEn, s.env)) →
    tx = (if v.getLsbD 2 && v.getLsbD 3 then rx.2.drawBool
      else (if v.getLsbD 2 then true else if v.getLsbD 3 then false else (s.chan c).txEn, rx.2)) →
    ch = { s.chan c with rxEn := rx.1, txEn := tx.1 } →
    (v.extractLsb' 4 4 = 0x1#4 →
      exec (commandOf c v) s =
        .next (((s.withEnv tx.2).setChan c { ch with mrPtr := 0 }).withReply .nothing)) ∧
    (v.extractLsb' 4 4 = 0x2#4 →
      exec (commandOf c v) s =
        .next (((s.withEnv tx.2).setChan c { ch with rxEn := false, fifo := [] }).withReply .nothing)) ∧
    (v.extractLsb' 4 4 = 0xC#4 → s.params.cmdCEntersStandby = true →
      exec (commandOf c v) s = .next (((s.withEnv tx.2).withDuart
        { s.duart.setChan c ch with standby := true }).withReply .nothing)) ∧
    (v.extractLsb' 4 4 ≠ 0x1#4 → v.extractLsb' 4 4 ≠ 0x2#4 →
      (v.extractLsb' 4 4 = 0xC#4 → s.params.cmdCEntersStandby = false) →
      exec (commandOf c v) s = .next (((s.withEnv tx.2).setChan c ch).withReply .nothing))) ∧
  ∀ (e : Env) (b : Bool) (rest : List Draw), e.script = .bool b :: rest →
    e.drawBool = (b, { e with script := rest })

/-- The transmit holding write (R281): an enabled transmitter emits `Tx(ch, v)` at the end of the trace, a disabled
one discards the byte: DUART_W_THRA, DUART_W_THRB. -/
def Obligations.HoldingWriteTransmitsWhenEnabled : Prop :=
  ∀ (s : State) (c : ChanId) (v : Byte), s.duart.standby = false →
    ((s.chan c).txEn = true →
      exec (holdingWriteOf c v) s =
        .next ((s.withTxTrace (s.txTrace ++ [⟨match c with | .a => 0 | .b => 1, v⟩])).withReply .nothing)) ∧
    ((s.chan c).txEn = false → exec (holdingWriteOf c v) s = .next (s.withReply .nothing))

/-! ## Standby -/

/-- In standby every register read answers 0 and changes nothing (R216): all sixteen DUART_R_* rows. -/
def Obligations.StandbyReadsAnswerZero : Prop :=
  ∀ (s : State) (r : BitVec 4), s.duart.standby = true →
    exec (readInstr r) s = .next (s.withReply (.byte 0x00))

/-- In standby a write is discarded, but for a command register write whose upper nibble is 0xD, which clears
standby and does nothing else (R246, R247): all sixteen DUART_W_* register rows and DUART_W_WAKE. -/
def Obligations.StandbyWritesAreDiscardedButTheWake : Prop :=
  ∀ (s : State) (r : BitVec 4) (v : Byte) (c : ChanId) (lo : BitVec 4), s.duart.standby = true →
    ((r = 0x2 ∨ r = 0xA) ∧ v.extractLsb' 4 4 = 0xD#4 →
      exec (writeInstr r v) s = .next ((s.withDuart { s.duart with standby := false }).withReply .nothing)) ∧
    (¬((r = 0x2 ∨ r = 0xA) ∧ v.extractLsb' 4 4 = 0xD#4) →
      exec (writeInstr r v) s = .next (s.withReply .nothing)) ∧
    exec (.duartWWake c lo) s = .next ((s.withDuart { s.duart with standby := false }).withReply .nothing)

/-- The wake row and the command write of the same byte are one access (R127, R247): in every state they do the same.
DUART_W_WAKE. -/
def Obligations.WakeIsTheCommandWriteOfItsByte : Prop :=
  ∀ (s : State) (c : ChanId) (lo : BitVec 4),
    exec (.duartWWake c lo) s = exec (commandOf c (0xD0 ||| lo.setWidth 8)) s

/-- Standby is entered through command 0xC alone, and only under its parameter (R44, R359): without the parameter no
transaction of any row enters standby, a reset included. -/
def Obligations.NoTransactionEntersStandbyUnlessConfigured : Prop :=
  ∀ (s t : State) (i : Instr), exec i s = .next t → s.params.cmdCEntersStandby = false →
    s.duart.standby = false → t.duart.standby = false

/-! ## The bus -/

/-- The four regions partition the bus space as the map says, for every legal choice of parameters (R72, R8). -/
def Obligations.RegionsPartitionTheBusSpace : Prop :=
  ∀ (p : Params) (a : BusAddr), p.valid = true →
    (regionOf p a = .low ↔ a.toNat ≤ 0x0FFFFF) ∧
    (regionOf p a = .romWin ↔ p.romBase ≤ a.toNat ∧ a.toNat < p.romBase + p.romSize) ∧
    (regionOf p a = .io ↔ p.ioBase ≤ a.toNat) ∧
    (regionOf p a = .void ↔ 0x0FFFFF < a.toNat ∧ a.toNat < p.ioBase ∧
      ¬(p.romBase ≤ a.toNat ∧ a.toNat < p.romBase + p.romSize))

/-- Register `r` is at `IO_BASE + 0x200*k + 2*r + 1` for every k that stays in the I/O window (R75, R76). -/
def Obligations.RegistersRepeatThroughTheIoWindow : Prop :=
  ∀ (p : Params) (r : BitVec 4) (k : Nat), p.valid = true →
    p.ioBase % 2 = 0 → p.ioBase + 0x200 * k + 2 * r.toNat + 1 ≤ 0xFFFFFF →
    regionOf p (BitVec.ofNat 24 (p.ioBase + 0x200 * k + 2 * r.toNat + 1)) = .io ∧
    liveReg p (BitVec.ofNat 24 (p.ioBase + 0x200 * k + 2 * r.toNat + 1)) = some r

/-- A byte read of RAM, of the ROM window and of a void address with the overlay off (R73, R74, R77): BUS_READ8. -/
def Obligations.ByteReadsOfRamRomAndVoid : Prop :=
  ∀ (s : State) (addr : CpuAddr) (a : BusAddr), s.overlay = false → a = addr.setWidth 24 →
    (regionOf s.params a = .low → exec (.busRead8 addr) s = .next (s.withReply (.byte (memRead s.ram a.toNat)))) ∧
    (regionOf s.params a = .romWin →
      exec (.busRead8 addr) s = .next (s.withReply (.byte (memRead s.rom (a.toNat - s.params.romBase))))) ∧
    (regionOf s.params a = .void → exec (.busRead8 addr) s = .next (s.withReply (.byte 0x00)))

/-- A byte write of RAM, of the ROM window and of a void address with the overlay off (R73, R74, R77), byte by byte:
BUS_WRITE8. -/
def Obligations.ByteWritesOfRamRomAndVoid : Prop :=
  ∀ (s : State) (addr : CpuAddr) (v : Byte) (a : BusAddr), s.overlay = false → s.ram.wf = true →
    a = addr.setWidth 24 →
    (regionOf s.params a = .low →
      ∃ m, exec (.busWrite8 addr v) s = .next ((s.withRam m).withReply .nothing) ∧ m.wf = true ∧
        memRead m a.toNat = v ∧ ∀ n, n ≠ a.toNat → memRead m n = memRead s.ram n) ∧
    (regionOf s.params a = .romWin ∨ regionOf s.params a = .void →
      exec (.busWrite8 addr v) s = .next (s.withReply .nothing))

/-- In the I/O window a byte access of an odd address whose register is 0x0..0xF is that register's access; an even
address and, unless the parameter aliases it, a register beyond 0xF answers 0 and drops writes (R75, R76, R172, R174):
BUS_READ8, BUS_WRITE8. -/
def Obligations.IoBytesReachTheirRegister : Prop :=
  ∀ (s : State) (addr : CpuAddr) (v : Byte) (a : BusAddr) (ra : Nat),
    a = addr.setWidth 24 → regionOf s.params a = .io → ra = (a.toNat - s.params.ioBase) / 2 % 256 →
    (a.toNat % 2 = 0 → exec (.busRead8 addr) s = .next (s.withReply (.byte 0x00)) ∧
      exec (.busWrite8 addr v) s = .next (s.withReply .nothing)) ∧
    (a.toNat % 2 = 1 → ra ≤ 15 ∨ s.params.ioRegAlias = .mask4 →
      exec (.busRead8 addr) s = exec (readInstr (BitVec.ofNat 4 (ra % 16))) s ∧
      exec (.busWrite8 addr v) s = exec (writeInstr (BitVec.ofNat 4 (ra % 16)) v) s) ∧
    (a.toNat % 2 = 1 → 15 < ra → s.params.ioRegAlias = .inert →
      exec (.busRead8 addr) s = .next (s.withReply (.byte 0x00)) ∧
      exec (.busWrite8 addr v) s = .next (s.withReply .nothing))

/-- Only the low 24 bits of a bus address count (R71): BUS_READ8, BUS_WRITE8, BUS_READ16, BUS_WRITE16. The width of
the address the CPU core presents is the model's (notes/assumptions/2.md). -/
def Obligations.BusAddressesAreMaskedTo24Bits : Prop :=
  ∀ (s : State) (addr addr' : CpuAddr) (v : Byte) (w : Half), addr &&& 0xFFFFFF = addr' &&& 0xFFFFFF →
    exec (.busRead8 addr) s = exec (.busRead8 addr') s ∧
    exec (.busWrite8 addr v) s = exec (.busWrite8 addr' v) s ∧
    exec (.busRead16 addr) s = exec (.busRead16 addr') s ∧
    exec (.busWrite16 addr w) s = exec (.busWrite16 addr' w) s



/-- A word access is the two byte accesses at its address and at the next address modulo 2^24, in this order, with the
high byte first (R175, R177, R78, R80): BUS_READ16, BUS_WRITE16. -/
def Obligations.WordAccessIsTwoByteAccesses : Prop :=
  ∀ (s s1 s2 : State) (addr addr' : CpuAddr) (hi lo : Byte),
    addr'.toNat = (addr.toNat + 1) % 0x1000000 →
    (exec (.busRead8 addr) s = .next s1 → s1.reply = .byte hi →
      exec (.busRead8 addr') s1 = .next s2 → s2.reply = .byte lo →
      exec (.busRead16 addr) s = .next (s2.withReply (.word (hi ++ lo)))) ∧
    (exec (.busWrite8 addr hi) s = .next s1 → exec (.busWrite8 addr' lo) s1 = .next s2 →
      exec (.busWrite16 addr (hi ++ lo)) s = .next s2)

/-- Words in RAM are big-endian, at any alignment (R78, R80): the read composes the two bytes, the write stores the
two bytes and no other: BUS_READ16, BUS_WRITE16. -/
def Obligations.RamWordsAreBigEndian : Prop :=
  ∀ (s : State) (addr : CpuAddr) (v : Half) (a : Nat), s.overlay = false → s.ram.wf = true →
    a = (addr.setWidth 24).toNat → a + 1 ≤ 0x0FFFFF →
    exec (.busRead16 addr) s = .next (s.withReply (.word (memRead s.ram a ++ memRead s.ram (a + 1)))) ∧
    ∃ m, exec (.busWrite16 addr v) s = .next ((s.withRam m).withReply .nothing) ∧ m.wf = true ∧
      memRead m a = v.extractLsb' 8 8 ∧ memRead m (a + 1) = v.extractLsb' 0 8 ∧
      ∀ n, n ≠ a → n ≠ a + 1 → memRead m n = memRead s.ram n

/-- A word access in the I/O window reaches one register, in one byte lane (R176, R178): at the even address the low
byte, at the odd address the high byte; the other lane reads 0 and its byte is dropped: BUS_READ16, BUS_WRITE16. -/
def Obligations.IoWordsReachOneRegisterInOneLane : Prop :=
  ∀ (s t u : State) (r : BitVec 4) (k : Nat) (addr : CpuAddr) (x : Byte) (v : Half),
    s.params.valid = true → s.params.ioBase % 2 = 0 →
    s.params.ioBase + 0x200 * k + 2 * r.toNat + 2 ≤ 0xFFFFFF →
    exec (readInstr r) s = .next t → t.reply = .byte x →
    (addr.toNat = s.params.ioBase + 0x200 * k + 2 * r.toNat →
      exec (.busRead16 addr) s = .next (t.withReply (.word (0#8 ++ x))) ∧
      (exec (writeInstr r (v.extractLsb' 0 8)) s = .next u → exec (.busWrite16 addr v) s = .next u)) ∧
    (addr.toNat = s.params.ioBase + 0x200 * k + 2 * r.toNat + 1 →
      exec (.busRead16 addr) s = .next (t.withReply (.word (x ++ 0#8))) ∧
      (exec (writeInstr r (v.extractLsb' 8 8)) s = .next u → exec (.busWrite16 addr v) s = .next u))

/-- A RAM byte reads back as the latest write of it, through the bus, and every other RAM byte as before (R86, R89):
BUS_WRITE8, BUS_READ8. -/
def Obligations.RamReadsTheLatestWrite : Prop :=
  ∀ (s t : State) (addr addr' : CpuAddr) (v : Byte), s.overlay = false → s.ram.wf = true →
    (addr.setWidth 24).toNat ≤ 0x0FFFFF → (addr'.setWidth 24).toNat ≤ 0x0FFFFF →
    exec (.busWrite8 addr v) s = .next t →
    exec (.busRead8 addr') t = .next (t.withReply (.byte
      (if addr'.setWidth 24 = addr.setWidth 24 then v else memRead s.ram (addr'.setWidth 24).toNat)))

/-- The boot overlay (R83, R171): LOW reads reach ROM and ROM-window reads reach RAM, a read beyond the buffer is
refused, writes of both regions are refused, and VOID is as without it (IO is too: IoBytesReachTheirRegister asks
nothing of the overlay): BUS_READ8, BUS_WRITE8. -/
def Obligations.OverlayExchangesTheBuffers : Prop :=
  ∀ (s : State) (addr : CpuAddr) (v : Byte) (a : Nat), s.overlay = true → a = (addr.setWidth 24).toNat →
    (regionOf s.params (addr.setWidth 24) = .low →
      (a < s.params.romSize → exec (.busRead8 addr) s = .next (s.withReply (.byte (memRead s.rom a)))) ∧
      (s.params.romSize ≤ a → exec (.busRead8 addr) s = .refused .overlayBeyondBuffer) ∧
      exec (.busWrite8 addr v) s = .refused .writeDuringOverlay) ∧
    (regionOf s.params (addr.setWidth 24) = .romWin →
      (a - s.params.romBase < 0x100000 →
        exec (.busRead8 addr) s = .next (s.withReply (.byte (memRead s.ram (a - s.params.romBase))))) ∧
      exec (.busWrite8 addr v) s = .refused .writeDuringOverlay) ∧
    (regionOf s.params (addr.setWidth 24) = .void →
      exec (.busRead8 addr) s = .next (s.withReply (.byte 0x00)) ∧
      exec (.busWrite8 addr v) s = .next (s.withReply .nothing))

/-! ## The interrupt controller -/

/-- `sourceAdd` (R141): false outside 1..7 and at an occupied level, with nothing changed; otherwise the source is
bound and enabled: IC_SOURCE_ADD. -/
def Obligations.SourceAddBindsAFreeLevel : Prop :=
  ∀ (s : State) (src : SourceId) (level : Int),
    (level < 1 ∨ 7 < level → exec (.icSourceAdd src level) s = .next (s.withReply (.bool false))) ∧
    ∀ i : Fin 7, level = i.val + 1 →
      (s.slots.get i ≠ none → exec (.icSourceAdd src level) s = .next (s.withReply (.bool false))) ∧
      (s.slots.get i = none → exec (.icSourceAdd src level) s =
        .next ((s.withSlots (s.slots.set i.val (some ⟨src, true⟩) i.isLt)).withReply (.bool true)))

/-- Removal, enabling and disabling by level (R142, R144, R145, R148): false where the level is out of range or its
slot empty, with nothing changed: IC_SOURCE_REMOVE_LEVEL, IC_SOURCE_ENABLE_LEVEL, IC_SOURCE_DISABLE_LEVEL. -/
def Obligations.LevelKeysActOnTheirOwnSlot : Prop :=
  ∀ (s : State) (level : Int),
    (level < 1 ∨ 7 < level →
      exec (.icSourceRemoveLevel level) s = .next (s.withReply (.bool false)) ∧
      exec (.icSourceEnableLevel level) s = .next (s.withReply (.bool false)) ∧
      exec (.icSourceDisableLevel level) s = .next (s.withReply (.bool false))) ∧
    ∀ i : Fin 7, level = i.val + 1 →
      (s.slots.get i = none →
        exec (.icSourceRemoveLevel level) s = .next (s.withReply (.bool false)) ∧
        exec (.icSourceEnableLevel level) s = .next (s.withReply (.bool false)) ∧
        exec (.icSourceDisableLevel level) s = .next (s.withReply (.bool false))) ∧
      ∀ sl, s.slots.get i = some sl →
        exec (.icSourceRemoveLevel level) s =
          .next ((s.withSlots (s.slots.set i.val none i.isLt)).withReply (.bool true)) ∧
        exec (.icSourceEnableLevel level) s =
          .next ((s.withSlots (s.slots.set i.val (some ⟨sl.src, true⟩) i.isLt)).withReply (.bool true)) ∧
        exec (.icSourceDisableLevel level) s =
          .next ((s.withSlots (s.slots.set i.val (some ⟨sl.src, false⟩) i.isLt)).withReply (.bool true))

/-- Removal, enabling and disabling by source act on the lowest level that binds it, enabled or not; false where none
does (R142, R144, R145, R148): IC_SOURCE_REMOVE_SRC, IC_SOURCE_ENABLE_SRC, IC_SOURCE_DISABLE_SRC. -/
def Obligations.SourceKeysActOnTheLowestBinding : Prop :=
  ∀ (s : State) (src : SourceId),
    ((∀ (i : Fin 7) (sl : Slot), s.slots.get i = some sl → sl.src ≠ src) →
      exec (.icSourceRemoveSrc src) s = .next (s.withReply (.bool false)) ∧
      exec (.icSourceEnableSrc src) s = .next (s.withReply (.bool false)) ∧
      exec (.icSourceDisableSrc src) s = .next (s.withReply (.bool false))) ∧
    ∀ (i : Fin 7) (en : Bool), s.slots.get i = some ⟨src, en⟩ →
      (∀ (j : Fin 7) (sl : Slot), j < i → s.slots.get j = some sl → sl.src ≠ src) →
      exec (.icSourceRemoveSrc src) s =
        .next ((s.withSlots (s.slots.set i.val none i.isLt)).withReply (.bool true)) ∧
      exec (.icSourceEnableSrc src) s =
        .next ((s.withSlots (s.slots.set i.val (some ⟨src, true⟩) i.isLt)).withReply (.bool true)) ∧
      exec (.icSourceDisableSrc src) s =
        .next ((s.withSlots (s.slots.set i.val (some ⟨src, false⟩) i.isLt)).withReply (.bool true))

/-- The poll (R143, R345). The slots polled are those that bind an enabled source, in ascending level order; the next
state is the state after one poll of each, with the level recorded; the level is at least that of every slot whose
source answered true in its turn, and is 0 or one of these. A poll of the DUART is a masked ISR read, but in standby
false and nothing else (R304); a poll of an extra source is one draw (R343; notes/assumptions/4.md, 8.md). Only the
timer and the draws can change: IC_POLL. -/
def Obligations.PollReportsTheHighestAssertingLevel : Prop :=
  (∀ (s : State) (order : List (Fin 7)), order = enabledSlots s.slots slotOrder →
    order.Pairwise (· < ·) ∧ (∀ i, i ∈ order ↔ ∃ src, s.slots.get i = some ⟨src, true⟩) ∧
    (∃ (e : Env) (tm : Timer), afterPolls s.slots order s = (s.withEnv e).withDuart { s.duart with timer := tm }) ∧
    ∃ l : BitVec 3,
      exec .icPoll s = .next (((afterPolls s.slots order s).withIpl l).withReply (.level l)) ∧
      (∀ before i later, order = before ++ i :: later →
        (pollAt s.slots i (afterPolls s.slots before s)).1 = true → i.val + 1 ≤ l.toNat) ∧
      (l = 0 ∨ ∃ before i later, order = before ++ i :: later ∧
        (pollAt s.slots i (afterPolls s.slots before s)).1 = true ∧ l.toNat = i.val + 1)) ∧
  ∀ u : State,
    (∀ k, pollSource (.extra k) u = (u.env.drawBool.1, u.withEnv u.env.drawBool.2)) ∧
    (u.duart.standby = true → pollSource .duart u = (false, u)) ∧
    (u.duart.standby = false → ∀ (t : State) (m : Byte), exec .duartRMisr u = .next t → t.reply = .byte m →
      pollSource .duart u = (decide (m ≠ 0), t.withReply u.reply))

/-- The poll of a board whose only enabled source is the DUART, at level i + 1 (R304, R344): 0 in standby, with no
draw and no timer check; otherwise the level exactly when the masked ISR is not 0: IC_POLL. -/
def Obligations.PollOfTheDuartFollowsItsMaskedIsr : Prop :=
  ∀ (s : State) (i : Fin 7), s.slots.get i = some ⟨.duart, true⟩ →
    (∀ (j : Fin 7) (sl : Slot), j ≠ i → s.slots.get j = some sl → sl.enabled = false) →
    (s.duart.standby = true → exec .icPoll s = .next ((s.withIpl 0).withReply (.level 0))) ∧
    (s.duart.standby = false → ∀ (t : State) (m : Byte), exec .duartRMisr s = .next t → t.reply = .byte m →
      exec .icPoll s = .next ((t.withIpl (if m ≠ 0 then BitVec.ofNat 3 (i.val + 1) else 0)).withReply
        (.level (if m ≠ 0 then BitVec.ofNat 3 (i.val + 1) else 0))))

/-- The vector read (R146, R346): the sentinel 0x0F for a level out of range and for an empty or disabled slot, `ivr`
for the DUART, whether or not it asserts and in standby too, and the environment's byte for an extra source; the bus
answers the same, zero-extended to 16 bits (R179); nothing but the draws changes: IC_READ_VECTOR, BUS_IACK_VECTOR. -/
def Obligations.VectorReadRoutesToTheBoundSource : Prop :=
  ∀ (s : State) (level : Int) (l : BitVec 3),
    (level < 1 ∨ 7 < level → exec (.icReadVector level) s = .next (s.withReply (.byte 0x0F))) ∧
    (l = 0 → exec (.busIackVector l) s = .next (s.withReply (.word 0x000F))) ∧
    ∀ i : Fin 7, level = i.val + 1 → l.toNat = i.val + 1 →
      ((s.slots.get i = none ∨ ∃ src, s.slots.get i = some ⟨src, false⟩) →
        exec (.icReadVector level) s = .next (s.withReply (.byte 0x0F)) ∧
        exec (.busIackVector l) s = .next (s.withReply (.word 0x000F))) ∧
      (s.slots.get i = some ⟨.duart, true⟩ →
        exec (.icReadVector level) s = .next (s.withReply (.byte s.duart.ivr)) ∧
        exec (.busIackVector l) s = .next (s.withReply (.word (s.duart.ivr.setWidth 16)))) ∧
      (∀ k, s.slots.get i = some ⟨.extra k, true⟩ →
        exec (.icReadVector level) s = .next ((s.withEnv s.env.drawByte.2).withReply (.byte s.env.drawByte.1)) ∧
        exec (.busIackVector l) s =
          .next ((s.withEnv s.env.drawByte.2).withReply (.word (s.env.drawByte.1.setWidth 16))))

/-- The controller's reset (R147, R381, R382): every bound source is reset, enabled or not, and no slot changes. The
DUART's registers get their reset values, its input port and standby flag stand; each extra source's reset is
recorded, in ascending level order: IC_RESET. -/
def Obligations.ControllerResetCascades : Prop :=
  ∀ s : State, ∃ d : Duart,
    exec .icReset s = .next (((s.withDuart d).withResetTrace
      (s.resetTrace ++ slotOrder.filterMap (fun i => extraIn (s.slots.get i)))).withReply .nothing) ∧
    (¬ duartBound s.slots → d = s.duart) ∧
    (duartBound s.slots →
      d.ivr = 0x0F ∧ d.imr = 0x00 ∧ d.acr = 0x00 ∧ d.ctr = 0x0000 ∧ d.opr = 0x00 ∧ d.ipChanges = 0x00 ∧
      d.timer.started = false ∧ d.timer.ack = false ∧
      (∀ c, d.chan c =
        { rxEn := false, txEn := false, fifo := [], mrPtr := 0, mr0 := 0x00, mr1 := 0x00, csr := 0x00 }) ∧
      d.ipValue = s.duart.ipValue ∧ d.standby = s.duart.standby)

/-! ## The host's steps -/

/-- `receive` (R283): dropped where the receiver is disabled or the FIFO holds 255 bytes, appended otherwise, in
standby too: HOST_RECEIVE. -/
def Obligations.ReceiveAppendsWhereEnabledAndNotFull : Prop :=
  ∀ (s : State) (c : ChanId) (b : Byte),
    ((s.chan c).rxEn = false ∨ (s.chan c).fifo.length = 255 →
      exec (.hostReceive c b) s = .next (s.withReply .nothing)) ∧
    ((s.chan c).rxEn = true → (s.chan c).fifo.length ≠ 255 →
      exec (.hostReceive c b) s =
        .next ((s.setChan c { s.chan c with fifo := (s.chan c).fifo ++ [b] }).withReply .nothing))

/-- Any number of bytes injected into an enabled channel leaves the first 255 of them and the bytes already there, in
order (R283, R285). -/
def Obligations.ManyReceivesKeepTheFirst255InOrder : Prop :=
  ∀ (s : State) (c : ChanId) (bytes : List Byte), (s.chan c).rxEn = true → (s.chan c).fifo.length ≤ 255 →
    ∃ t, receiveAll c bytes s = .next t ∧ (t.chan c).fifo = ((s.chan c).fifo ++ bytes).take 255 ∧
      (t.chan c).rxEn = true

/-- Successive reads of the receive holding register answer the FIFO's bytes in order and then 0, and leave it empty
(R263, R285, R391). -/
def Obligations.HoldingReadsDrainTheFifoInOrder : Prop :=
  ∀ (s : State) (c : ChanId), s.duart.standby = false →
    answersOf (List.replicate ((s.chan c).fifo.length + 1) (holdingReadOf c)) s =
      (s.chan c).fifo.map .byte ++ [.byte 0x00] ∧
    ∃ t, runAll (List.replicate ((s.chan c).fifo.length + 1) (holdingReadOf c)) s = .next t ∧ (t.chan c).fifo = []

/-- `setInputPort` (R305): the port takes the low six bits, the change bits are replaced by the difference:
HOST_SET_INPUT_PORT. -/
def Obligations.SetInputPortReplacesTheChangeBits : Prop :=
  ∀ (s : State) (v : Byte),
    exec (.hostSetInputPort v) s = .next ((s.withDuart { s.duart with
      ipValue := v &&& 0x3F, ipChanges := s.duart.ipValue ^^^ (v &&& 0x3F) }).withReply .nothing)


/-- The board reset (R380, R384). With the default reset sequence: what the controller's reset does, then the four
words of ROM bytes 0..7 are what the CPU core reads, and the overlay is off; nothing else changes. A sequence that
starts by writing RAM or the ROM window is refused (R83). That the sequence is the 68000's is the model's default
(notes/assumptions/5.md): BOARD_RESET. -/
def Obligations.BoardResetResetsAndReadsTheRomVectors : Prop :=
  ∀ s : State,
    (∀ t : State, s.params.cpuResetSeq = [.read16 0, .read16 2, .read16 4, .read16 6] → 8 ≤ s.params.romSize →
      exec .icReset s = .next t →
      exec .boardReset s = .next (((t.withOverlay false).withResetReads
        [.word (memRead s.rom 0 ++ memRead s.rom 1), .word (memRead s.rom 2 ++ memRead s.rom 3),
         .word (memRead s.rom 4 ++ memRead s.rom 5), .word (memRead s.rom 6 ++ memRead s.rom 7)]).withReply
        .nothing)) ∧
    (∀ (addr : CpuAddr) (v : Byte) (rest : List BusCall), s.params.cpuResetSeq = .write8 addr v :: rest →
      (regionOf s.params (addr.setWidth 24) = .low ∨ regionOf s.params (addr.setWidth 24) = .romWin) →
      exec .boardReset s = .refused .writeDuringOverlay)

/-! ## The counter/timer -/

/-- The interval is `5 * d * ctr / 9216` ms for both divisors and every reload value but 0 (R314). -/
def Obligations.TimerIntervalFormula : Prop :=
  ∀ (d : Nat) (ctr : Half), (d = 1 ∨ d = 16) → ctr ≠ 0 →
    timerInterval .exact d ctr = 5 * (d : Rat) * (ctr.toNat : Rat) / 9216 ∧
    5 / 9216 ≤ timerInterval .exact d ctr ∧ timerInterval .exact d ctr ≤ 109225 / 192

/-- The timer check (R315), in its four cases: a stopped timer answers false (R319); at or past the next boundary it
answers true, the window advances, and the acknowledge flag is cleared only under `TIMER_ACK_ON_ADVANCE`; inside the
period it answers whether the period is unacknowledged; before the first deadline it answers false. Only the advance
changes the timer. -/
def Obligations.TimerCheckFollowsItsWindow : Prop :=
  ∀ (p : Bool) (t : Timer) (now : Time),
    (t.started = false → timerCheck p now t = (false, t)) ∧
    (t.started = true →
      (t.next ≤ now → timerCheck p now t =
        (true, { t with cur := t.next, next := now + t.interval, ack := if p then false else t.ack })) ∧
      (t.cur ≤ now → now < t.next → timerCheck p now t = (!t.ack, t)) ∧
      (now < t.cur → now < t.next → timerCheck p now t = (false, t)))

/-- With `TIMER_ACK_ON_ADVANCE` true, counter-ready stays true at every evaluation from the first one at or after the
deadline, as long as nothing acknowledges it (R315): if a check at `now` answers true, then a check of what it leaves,
at any later time, answers true. -/
def Obligations.CounterReadyIsLevelLikeUntilAcknowledged : Prop :=
  ∀ (t : Timer) (now later : Time), t.Inv → (timerCheck true now t).1 = true → now ≤ later →
    (timerCheck true later (timerCheck true now t).2).1 = true

/-- An acknowledged period is silent until its next boundary, and the first evaluation at or after the boundary is
true, whatever the acknowledge flag and the parameter (R315, R316). -/
def Obligations.AcknowledgeSilencesUntilTheNextBoundary : Prop :=
  ∀ (p : Bool) (t : Timer) (now : Time), t.started = true →
    (now < t.next → timerCheck p now (timerStop t) = (false, timerStop t)) ∧
    (t.next ≤ now → (timerCheck p now (timerStop t)).1 = true ∧
      (timerCheck p now (timerStop t)).2.cur = t.next ∧
      (timerCheck p now (timerStop t)).2.next = now + t.interval)

/-- Nothing but its start, its stop, an evaluation of the ISR and a reset moves the timer (R319): every other row, a
write of ACR or CTR among them (R317), leaves it as it is. -/
def Obligations.OnlyItsOwnTransactionsMoveTheTimer : Prop :=
  ∀ (s t : State) (i : Instr), exec i s = .next t → mayMoveTimer i = false → t.duart.timer = s.duart.timer

/-! ## Rules of the whole machine -/

/-- With the overlay off and a reset sequence that reads inside the RAM range of a ROM large enough for it, every
transaction of every row completes (R340, R170). -/
def Obligations.EveryTransactionCompletes : Prop :=
  ∀ (s : State) (i : Instr), s.overlay = false →
    (∀ c ∈ s.params.cpuResetSeq, readsBelow (min s.params.romSize 0x100000) c) → ∃ t, exec i s = .next t

/-- No step changes a ROM byte or a parameter (R32, R74), takes back an event of the transmit trace (R282, R380), or
draws a clock reading earlier than the latest one (R311). -/
def Obligations.RomTraceAndClockNeverGoBack : Prop :=
  ∀ s t : State, step s = .next t →
    t.rom = s.rom ∧ t.params = s.params ∧ (∃ new, t.txTrace = s.txTrace ++ new) ∧ s.env.clock ≤ t.env.clock


/-- The two channels share no state (R260): an access of one channel, or a byte injected into it, leaves the other
channel as it is. -/
def Obligations.ChannelsShareNoState : Prop :=
  ∀ (s t : State) (c c' : ChanId) (i : Instr), c ≠ c' → actsOnChannel c i → exec i s = .next t →
    t.chan c' = s.chan c'

/-- A byte leaves a FIFO only through a receive holding read, command 0x2 or a reset (R285): no other row shortens it,
and what it holds stays its front. The rows excluded are the channel's own holding read and command write, the wake
row of its command register, the bus calls that can reach these, and the resets. -/
def Obligations.BytesLeaveAFifoOnlyByItsOwnReads : Prop :=
  ∀ (s t : State) (c : ChanId) (i : Instr), exec i s = .next t →
    i ≠ holdingReadOf c → (∀ v, i ≠ commandOf c v) → (∀ lo, i ≠ .duartWWake c lo) →
    (∀ a, i ≠ .busRead8 a) → (∀ a v, i ≠ .busWrite8 a v) → (∀ a, i ≠ .busRead16 a) → (∀ a v, i ≠ .busWrite16 a v) →
    i ≠ .icReset → i ≠ .boardReset →
    ∃ new, (t.chan c).fifo = (s.chan c).fifo ++ new

/-- The level the CPU core sees during a CPU step is the one polled before it, whatever the step's transactions do,
as long as none of them is itself a poll (R180, R388). The model's own throughout: `ipl` is its stand-in for the level
set on the CPU core, which is outside the block (notes/assumptions/12.md), and `runLoopStep` its function for one
step of the run loop, given the CPU core's transactions (notes/assumptions/17.md). -/
def Obligations.TheLevelIsSampledBeforeTheCpuStep : Prop :=
  ∀ (s t : State) (cpuStep : List Instr), (∀ i ∈ cpuStep, i ≠ .icPoll) → runLoopStep cpuStep s = .next t →
    t.ipl = (pollInterrupt s).1

/-- A host step that falls between the two byte halves of a word access, a receive or a `setInputPort`, does the same
as one placed before the word access or one placed after it, for word reads (the same answer and state) and for word
writes (R81): so running a word access as one step loses no behaviour (notes/assumptions/10.md). -/
def Obligations.ReceiveBetweenTheHalvesIsBeforeOrAfter : Prop :=
  ∀ (s s1 s2 s3 : State) (addr addr' : CpuAddr) (h : Instr) (hi lo : Byte), fallsBetweenHalves h →
    addr'.toNat = (addr.toNat + 1) % 0x1000000 →
    (exec (.busRead8 addr) s = .next s1 → s1.reply = .byte hi → exec h s1 = .next s2 →
      exec (.busRead8 addr') s2 = .next s3 → s3.reply = .byte lo →
      (∃ u, exec h s = .next u ∧ exec (.busRead16 addr) u = .next (s3.withReply (.word (hi ++ lo)))) ∨
      (∃ u, exec (.busRead16 addr) s = .next u ∧ u.reply = .word (hi ++ lo) ∧
        exec h u = .next (s3.withReply .nothing))) ∧
    (exec (.busWrite8 addr hi) s = .next s1 → exec h s1 = .next s2 → exec (.busWrite8 addr' lo) s2 = .next s3 →
      (∃ u, exec h s = .next u ∧ exec (.busWrite16 addr (hi ++ lo)) u = .next s3) ∨
      (∃ u, exec (.busWrite16 addr (hi ++ lo)) s = .next u ∧ exec h u = .next s3))
end

