-- ==== Sys2Proof/Laws/State.lean ====
section
/-! SUPPORT. One lemma per field per named update of State, and per channel update of the chip. -/

namespace Sys2Proof.Machine

variable (s : State)

/-! ## withReply -/

@[simp] theorem State.withReply_params (x : Reply) : (s.withReply x).params = s.params := rfl
@[simp] theorem State.withReply_ram (x : Reply) : (s.withReply x).ram = s.ram := rfl
@[simp] theorem State.withReply_rom (x : Reply) : (s.withReply x).rom = s.rom := rfl
@[simp] theorem State.withReply_overlay (x : Reply) : (s.withReply x).overlay = s.overlay := rfl
@[simp] theorem State.withReply_slots (x : Reply) : (s.withReply x).slots = s.slots := rfl
@[simp] theorem State.withReply_duart (x : Reply) : (s.withReply x).duart = s.duart := rfl
@[simp] theorem State.withReply_txTrace (x : Reply) : (s.withReply x).txTrace = s.txTrace := rfl
@[simp] theorem State.withReply_resetTrace (x : Reply) : (s.withReply x).resetTrace = s.resetTrace := rfl
@[simp] theorem State.withReply_env (x : Reply) : (s.withReply x).env = s.env := rfl
@[simp] theorem State.withReply_reply (x : Reply) : (s.withReply x).reply = x := rfl
@[simp] theorem State.withReply_ipl (x : Reply) : (s.withReply x).ipl = s.ipl := rfl
@[simp] theorem State.withReply_resetReads (x : Reply) : (s.withReply x).resetReads = s.resetReads := rfl
@[simp] theorem State.withReply_pending (x : Reply) : (s.withReply x).pending = s.pending := rfl

/-! ## withDuart -/

@[simp] theorem State.withDuart_params (x : Duart) : (s.withDuart x).params = s.params := rfl
@[simp] theorem State.withDuart_ram (x : Duart) : (s.withDuart x).ram = s.ram := rfl
@[simp] theorem State.withDuart_rom (x : Duart) : (s.withDuart x).rom = s.rom := rfl
@[simp] theorem State.withDuart_overlay (x : Duart) : (s.withDuart x).overlay = s.overlay := rfl
@[simp] theorem State.withDuart_slots (x : Duart) : (s.withDuart x).slots = s.slots := rfl
@[simp] theorem State.withDuart_duart (x : Duart) : (s.withDuart x).duart = x := rfl
@[simp] theorem State.withDuart_txTrace (x : Duart) : (s.withDuart x).txTrace = s.txTrace := rfl
@[simp] theorem State.withDuart_resetTrace (x : Duart) : (s.withDuart x).resetTrace = s.resetTrace := rfl
@[simp] theorem State.withDuart_env (x : Duart) : (s.withDuart x).env = s.env := rfl
@[simp] theorem State.withDuart_reply (x : Duart) : (s.withDuart x).reply = s.reply := rfl
@[simp] theorem State.withDuart_ipl (x : Duart) : (s.withDuart x).ipl = s.ipl := rfl
@[simp] theorem State.withDuart_resetReads (x : Duart) : (s.withDuart x).resetReads = s.resetReads := rfl
@[simp] theorem State.withDuart_pending (x : Duart) : (s.withDuart x).pending = s.pending := rfl

/-! ## withEnv -/

@[simp] theorem State.withEnv_params (x : Env) : (s.withEnv x).params = s.params := rfl
@[simp] theorem State.withEnv_ram (x : Env) : (s.withEnv x).ram = s.ram := rfl
@[simp] theorem State.withEnv_rom (x : Env) : (s.withEnv x).rom = s.rom := rfl
@[simp] theorem State.withEnv_overlay (x : Env) : (s.withEnv x).overlay = s.overlay := rfl
@[simp] theorem State.withEnv_slots (x : Env) : (s.withEnv x).slots = s.slots := rfl
@[simp] theorem State.withEnv_duart (x : Env) : (s.withEnv x).duart = s.duart := rfl
@[simp] theorem State.withEnv_txTrace (x : Env) : (s.withEnv x).txTrace = s.txTrace := rfl
@[simp] theorem State.withEnv_resetTrace (x : Env) : (s.withEnv x).resetTrace = s.resetTrace := rfl
@[simp] theorem State.withEnv_env (x : Env) : (s.withEnv x).env = x := rfl
@[simp] theorem State.withEnv_reply (x : Env) : (s.withEnv x).reply = s.reply := rfl
@[simp] theorem State.withEnv_ipl (x : Env) : (s.withEnv x).ipl = s.ipl := rfl
@[simp] theorem State.withEnv_resetReads (x : Env) : (s.withEnv x).resetReads = s.resetReads := rfl
@[simp] theorem State.withEnv_pending (x : Env) : (s.withEnv x).pending = s.pending := rfl

/-! ## withRam -/

@[simp] theorem State.withRam_params (x : Memory) : (s.withRam x).params = s.params := rfl
@[simp] theorem State.withRam_ram (x : Memory) : (s.withRam x).ram = x := rfl
@[simp] theorem State.withRam_rom (x : Memory) : (s.withRam x).rom = s.rom := rfl
@[simp] theorem State.withRam_overlay (x : Memory) : (s.withRam x).overlay = s.overlay := rfl
@[simp] theorem State.withRam_slots (x : Memory) : (s.withRam x).slots = s.slots := rfl
@[simp] theorem State.withRam_duart (x : Memory) : (s.withRam x).duart = s.duart := rfl
@[simp] theorem State.withRam_txTrace (x : Memory) : (s.withRam x).txTrace = s.txTrace := rfl
@[simp] theorem State.withRam_resetTrace (x : Memory) : (s.withRam x).resetTrace = s.resetTrace := rfl
@[simp] theorem State.withRam_env (x : Memory) : (s.withRam x).env = s.env := rfl
@[simp] theorem State.withRam_reply (x : Memory) : (s.withRam x).reply = s.reply := rfl
@[simp] theorem State.withRam_ipl (x : Memory) : (s.withRam x).ipl = s.ipl := rfl
@[simp] theorem State.withRam_resetReads (x : Memory) : (s.withRam x).resetReads = s.resetReads := rfl
@[simp] theorem State.withRam_pending (x : Memory) : (s.withRam x).pending = s.pending := rfl

/-! ## withSlots -/

@[simp] theorem State.withSlots_params (x : Vector (Option Slot) 7) : (s.withSlots x).params = s.params := rfl
@[simp] theorem State.withSlots_ram (x : Vector (Option Slot) 7) : (s.withSlots x).ram = s.ram := rfl
@[simp] theorem State.withSlots_rom (x : Vector (Option Slot) 7) : (s.withSlots x).rom = s.rom := rfl
@[simp] theorem State.withSlots_overlay (x : Vector (Option Slot) 7) : (s.withSlots x).overlay = s.overlay := rfl
@[simp] theorem State.withSlots_slots (x : Vector (Option Slot) 7) : (s.withSlots x).slots = x := rfl
@[simp] theorem State.withSlots_duart (x : Vector (Option Slot) 7) : (s.withSlots x).duart = s.duart := rfl
@[simp] theorem State.withSlots_txTrace (x : Vector (Option Slot) 7) : (s.withSlots x).txTrace = s.txTrace := rfl
@[simp] theorem State.withSlots_resetTrace (x : Vector (Option Slot) 7) :
    (s.withSlots x).resetTrace = s.resetTrace := rfl
@[simp] theorem State.withSlots_env (x : Vector (Option Slot) 7) : (s.withSlots x).env = s.env := rfl
@[simp] theorem State.withSlots_reply (x : Vector (Option Slot) 7) : (s.withSlots x).reply = s.reply := rfl
@[simp] theorem State.withSlots_ipl (x : Vector (Option Slot) 7) : (s.withSlots x).ipl = s.ipl := rfl
@[simp] theorem State.withSlots_resetReads (x : Vector (Option Slot) 7) :
    (s.withSlots x).resetReads = s.resetReads := rfl
@[simp] theorem State.withSlots_pending (x : Vector (Option Slot) 7) : (s.withSlots x).pending = s.pending := rfl

/-! ## withOverlay -/

@[simp] theorem State.withOverlay_params (x : Bool) : (s.withOverlay x).params = s.params := rfl
@[simp] theorem State.withOverlay_ram (x : Bool) : (s.withOverlay x).ram = s.ram := rfl
@[simp] theorem State.withOverlay_rom (x : Bool) : (s.withOverlay x).rom = s.rom := rfl
@[simp] theorem State.withOverlay_overlay (x : Bool) : (s.withOverlay x).overlay = x := rfl
@[simp] theorem State.withOverlay_slots (x : Bool) : (s.withOverlay x).slots = s.slots := rfl
@[simp] theorem State.withOverlay_duart (x : Bool) : (s.withOverlay x).duart = s.duart := rfl
@[simp] theorem State.withOverlay_txTrace (x : Bool) : (s.withOverlay x).txTrace = s.txTrace := rfl
@[simp] theorem State.withOverlay_resetTrace (x : Bool) : (s.withOverlay x).resetTrace = s.resetTrace := rfl
@[simp] theorem State.withOverlay_env (x : Bool) : (s.withOverlay x).env = s.env := rfl
@[simp] theorem State.withOverlay_reply (x : Bool) : (s.withOverlay x).reply = s.reply := rfl
@[simp] theorem State.withOverlay_ipl (x : Bool) : (s.withOverlay x).ipl = s.ipl := rfl
@[simp] theorem State.withOverlay_resetReads (x : Bool) : (s.withOverlay x).resetReads = s.resetReads := rfl
@[simp] theorem State.withOverlay_pending (x : Bool) : (s.withOverlay x).pending = s.pending := rfl

/-! ## withTxTrace -/

@[simp] theorem State.withTxTrace_params (x : List TxEvent) : (s.withTxTrace x).params = s.params := rfl
@[simp] theorem State.withTxTrace_ram (x : List TxEvent) : (s.withTxTrace x).ram = s.ram := rfl
@[simp] theorem State.withTxTrace_rom (x : List TxEvent) : (s.withTxTrace x).rom = s.rom := rfl
@[simp] theorem State.withTxTrace_overlay (x : List TxEvent) : (s.withTxTrace x).overlay = s.overlay := rfl
@[simp] theorem State.withTxTrace_slots (x : List TxEvent) : (s.withTxTrace x).slots = s.slots := rfl
@[simp] theorem State.withTxTrace_duart (x : List TxEvent) : (s.withTxTrace x).duart = s.duart := rfl
@[simp] theorem State.withTxTrace_txTrace (x : List TxEvent) : (s.withTxTrace x).txTrace = x := rfl
@[simp] theorem State.withTxTrace_resetTrace (x : List TxEvent) : (s.withTxTrace x).resetTrace = s.resetTrace := rfl
@[simp] theorem State.withTxTrace_env (x : List TxEvent) : (s.withTxTrace x).env = s.env := rfl
@[simp] theorem State.withTxTrace_reply (x : List TxEvent) : (s.withTxTrace x).reply = s.reply := rfl
@[simp] theorem State.withTxTrace_ipl (x : List TxEvent) : (s.withTxTrace x).ipl = s.ipl := rfl
@[simp] theorem State.withTxTrace_resetReads (x : List TxEvent) : (s.withTxTrace x).resetReads = s.resetReads := rfl
@[simp] theorem State.withTxTrace_pending (x : List TxEvent) : (s.withTxTrace x).pending = s.pending := rfl

/-! ## withResetTrace -/

@[simp] theorem State.withResetTrace_params (x : List Byte) : (s.withResetTrace x).params = s.params := rfl
@[simp] theorem State.withResetTrace_ram (x : List Byte) : (s.withResetTrace x).ram = s.ram := rfl
@[simp] theorem State.withResetTrace_rom (x : List Byte) : (s.withResetTrace x).rom = s.rom := rfl
@[simp] theorem State.withResetTrace_overlay (x : List Byte) : (s.withResetTrace x).overlay = s.overlay := rfl
@[simp] theorem State.withResetTrace_slots (x : List Byte) : (s.withResetTrace x).slots = s.slots := rfl
@[simp] theorem State.withResetTrace_duart (x : List Byte) : (s.withResetTrace x).duart = s.duart := rfl
@[simp] theorem State.withResetTrace_txTrace (x : List Byte) : (s.withResetTrace x).txTrace = s.txTrace := rfl
@[simp] theorem State.withResetTrace_resetTrace (x : List Byte) : (s.withResetTrace x).resetTrace = x := rfl
@[simp] theorem State.withResetTrace_env (x : List Byte) : (s.withResetTrace x).env = s.env := rfl
@[simp] theorem State.withResetTrace_reply (x : List Byte) : (s.withResetTrace x).reply = s.reply := rfl
@[simp] theorem State.withResetTrace_ipl (x : List Byte) : (s.withResetTrace x).ipl = s.ipl := rfl
@[simp] theorem State.withResetTrace_resetReads (x : List Byte) : (s.withResetTrace x).resetReads = s.resetReads := rfl
@[simp] theorem State.withResetTrace_pending (x : List Byte) : (s.withResetTrace x).pending = s.pending := rfl

/-! ## withIpl -/

@[simp] theorem State.withIpl_params (x : BitVec 3) : (s.withIpl x).params = s.params := rfl
@[simp] theorem State.withIpl_ram (x : BitVec 3) : (s.withIpl x).ram = s.ram := rfl
@[simp] theorem State.withIpl_rom (x : BitVec 3) : (s.withIpl x).rom = s.rom := rfl
@[simp] theorem State.withIpl_overlay (x : BitVec 3) : (s.withIpl x).overlay = s.overlay := rfl
@[simp] theorem State.withIpl_slots (x : BitVec 3) : (s.withIpl x).slots = s.slots := rfl
@[simp] theorem State.withIpl_duart (x : BitVec 3) : (s.withIpl x).duart = s.duart := rfl
@[simp] theorem State.withIpl_txTrace (x : BitVec 3) : (s.withIpl x).txTrace = s.txTrace := rfl
@[simp] theorem State.withIpl_resetTrace (x : BitVec 3) : (s.withIpl x).resetTrace = s.resetTrace := rfl
@[simp] theorem State.withIpl_env (x : BitVec 3) : (s.withIpl x).env = s.env := rfl
@[simp] theorem State.withIpl_reply (x : BitVec 3) : (s.withIpl x).reply = s.reply := rfl
@[simp] theorem State.withIpl_ipl (x : BitVec 3) : (s.withIpl x).ipl = x := rfl
@[simp] theorem State.withIpl_resetReads (x : BitVec 3) : (s.withIpl x).resetReads = s.resetReads := rfl
@[simp] theorem State.withIpl_pending (x : BitVec 3) : (s.withIpl x).pending = s.pending := rfl

/-! ## withResetReads -/

@[simp] theorem State.withResetReads_params (x : List Reply) : (s.withResetReads x).params = s.params := rfl
@[simp] theorem State.withResetReads_ram (x : List Reply) : (s.withResetReads x).ram = s.ram := rfl
@[simp] theorem State.withResetReads_rom (x : List Reply) : (s.withResetReads x).rom = s.rom := rfl
@[simp] theorem State.withResetReads_overlay (x : List Reply) : (s.withResetReads x).overlay = s.overlay := rfl
@[simp] theorem State.withResetReads_slots (x : List Reply) : (s.withResetReads x).slots = s.slots := rfl
@[simp] theorem State.withResetReads_duart (x : List Reply) : (s.withResetReads x).duart = s.duart := rfl
@[simp] theorem State.withResetReads_txTrace (x : List Reply) : (s.withResetReads x).txTrace = s.txTrace := rfl
@[simp] theorem State.withResetReads_resetTrace (x : List Reply) : (s.withResetReads x).resetTrace = s.resetTrace := rfl
@[simp] theorem State.withResetReads_env (x : List Reply) : (s.withResetReads x).env = s.env := rfl
@[simp] theorem State.withResetReads_reply (x : List Reply) : (s.withResetReads x).reply = s.reply := rfl
@[simp] theorem State.withResetReads_ipl (x : List Reply) : (s.withResetReads x).ipl = s.ipl := rfl
@[simp] theorem State.withResetReads_resetReads (x : List Reply) : (s.withResetReads x).resetReads = x := rfl
@[simp] theorem State.withResetReads_pending (x : List Reply) : (s.withResetReads x).pending = s.pending := rfl

/-! ## withPending -/

@[simp] theorem State.withPending_params (x : List Frame) : (s.withPending x).params = s.params := rfl
@[simp] theorem State.withPending_ram (x : List Frame) : (s.withPending x).ram = s.ram := rfl
@[simp] theorem State.withPending_rom (x : List Frame) : (s.withPending x).rom = s.rom := rfl
@[simp] theorem State.withPending_overlay (x : List Frame) : (s.withPending x).overlay = s.overlay := rfl
@[simp] theorem State.withPending_slots (x : List Frame) : (s.withPending x).slots = s.slots := rfl
@[simp] theorem State.withPending_duart (x : List Frame) : (s.withPending x).duart = s.duart := rfl
@[simp] theorem State.withPending_txTrace (x : List Frame) : (s.withPending x).txTrace = s.txTrace := rfl
@[simp] theorem State.withPending_resetTrace (x : List Frame) : (s.withPending x).resetTrace = s.resetTrace := rfl
@[simp] theorem State.withPending_env (x : List Frame) : (s.withPending x).env = s.env := rfl
@[simp] theorem State.withPending_reply (x : List Frame) : (s.withPending x).reply = s.reply := rfl
@[simp] theorem State.withPending_ipl (x : List Frame) : (s.withPending x).ipl = s.ipl := rfl
@[simp] theorem State.withPending_resetReads (x : List Frame) : (s.withPending x).resetReads = s.resetReads := rfl
@[simp] theorem State.withPending_pending (x : List Frame) : (s.withPending x).pending = x := rfl

/-! ## An update of a field twice, and to its own value -/

@[simp] theorem State.withReply_withReply (x y : Reply) : (s.withReply x).withReply y = s.withReply y := rfl
@[simp] theorem State.withReply_self : s.withReply s.reply = s := rfl
@[simp] theorem State.withDuart_withDuart (x y : Duart) : (s.withDuart x).withDuart y = s.withDuart y := rfl
@[simp] theorem State.withDuart_self : s.withDuart s.duart = s := rfl
@[simp] theorem State.withEnv_withEnv (x y : Env) : (s.withEnv x).withEnv y = s.withEnv y := rfl
@[simp] theorem State.withEnv_self : s.withEnv s.env = s := rfl
@[simp] theorem State.withRam_withRam (x y : Memory) : (s.withRam x).withRam y = s.withRam y := rfl
@[simp] theorem State.withRam_self : s.withRam s.ram = s := rfl
@[simp] theorem State.withSlots_withSlots (x y : Vector (Option Slot) 7) :
    (s.withSlots x).withSlots y = s.withSlots y := rfl
@[simp] theorem State.withSlots_self : s.withSlots s.slots = s := rfl
@[simp] theorem State.withOverlay_withOverlay (x y : Bool) : (s.withOverlay x).withOverlay y = s.withOverlay y := rfl
@[simp] theorem State.withOverlay_self : s.withOverlay s.overlay = s := rfl
@[simp] theorem State.withTxTrace_withTxTrace (x y : List TxEvent) :
    (s.withTxTrace x).withTxTrace y = s.withTxTrace y := rfl
@[simp] theorem State.withTxTrace_self : s.withTxTrace s.txTrace = s := rfl
@[simp] theorem State.withResetTrace_withResetTrace (x y : List Byte) :
    (s.withResetTrace x).withResetTrace y = s.withResetTrace y := rfl
@[simp] theorem State.withResetTrace_self : s.withResetTrace s.resetTrace = s := rfl
@[simp] theorem State.withIpl_withIpl (x y : BitVec 3) : (s.withIpl x).withIpl y = s.withIpl y := rfl
@[simp] theorem State.withIpl_self : s.withIpl s.ipl = s := rfl
@[simp] theorem State.withResetReads_withResetReads (x y : List Reply) :
    (s.withResetReads x).withResetReads y = s.withResetReads y := rfl
@[simp] theorem State.withResetReads_self : s.withResetReads s.resetReads = s := rfl
@[simp] theorem State.withPending_withPending (x y : List Frame) :
    (s.withPending x).withPending y = s.withPending y := rfl
@[simp] theorem State.withPending_self : s.withPending s.pending = s := rfl

/-! ## Channels of the chip -/

variable (d : Duart) (c : ChanId) (ch : Channel)

@[simp] theorem Duart.chan_setChan_same : (d.setChan c ch).chan c = ch := by cases c <;> rfl

theorem Duart.chan_setChan_other {c c' : ChanId} (h : c' ≠ c) : (d.setChan c ch).chan c' = d.chan c' := by
  cases c <;> cases c' <;> first | rfl | exact absurd rfl h

@[simp] theorem Duart.setChan_setChan (ch' : Channel) : (d.setChan c ch).setChan c ch' = d.setChan c ch' := by
  cases c <;> rfl

@[simp] theorem Duart.setChan_self : d.setChan c (d.chan c) = d := by cases c <;> rfl

@[simp] theorem Duart.setChan_ivr : (d.setChan c ch).ivr = d.ivr := by cases c <;> rfl
@[simp] theorem Duart.setChan_imr : (d.setChan c ch).imr = d.imr := by cases c <;> rfl
@[simp] theorem Duart.setChan_acr : (d.setChan c ch).acr = d.acr := by cases c <;> rfl
@[simp] theorem Duart.setChan_ctr : (d.setChan c ch).ctr = d.ctr := by cases c <;> rfl
@[simp] theorem Duart.setChan_opr : (d.setChan c ch).opr = d.opr := by cases c <;> rfl
@[simp] theorem Duart.setChan_ipValue : (d.setChan c ch).ipValue = d.ipValue := by cases c <;> rfl
@[simp] theorem Duart.setChan_ipChanges : (d.setChan c ch).ipChanges = d.ipChanges := by cases c <;> rfl
@[simp] theorem Duart.setChan_standby : (d.setChan c ch).standby = d.standby := by cases c <;> rfl
@[simp] theorem Duart.setChan_timer : (d.setChan c ch).timer = d.timer := by cases c <;> rfl

/-! ## Channels of the machine -/

@[simp] theorem State.chan_setChan_same : (s.setChan c ch).chan c = ch := Duart.chan_setChan_same _ _ _
@[simp] theorem State.setChan_setChan (ch' : Channel) : (s.setChan c ch).setChan c ch' = s.setChan c ch' :=
  congrArg s.withDuart (Duart.setChan_setChan _ _ _ _)
@[simp] theorem State.setChan_duart : (s.setChan c ch).duart = s.duart.setChan c ch := rfl
@[simp] theorem State.setChan_params : (s.setChan c ch).params = s.params := rfl
@[simp] theorem State.setChan_ram : (s.setChan c ch).ram = s.ram := rfl
@[simp] theorem State.setChan_rom : (s.setChan c ch).rom = s.rom := rfl
@[simp] theorem State.setChan_overlay : (s.setChan c ch).overlay = s.overlay := rfl
@[simp] theorem State.setChan_slots : (s.setChan c ch).slots = s.slots := rfl
@[simp] theorem State.setChan_txTrace : (s.setChan c ch).txTrace = s.txTrace := rfl
@[simp] theorem State.setChan_resetTrace : (s.setChan c ch).resetTrace = s.resetTrace := rfl
@[simp] theorem State.setChan_env : (s.setChan c ch).env = s.env := rfl
@[simp] theorem State.setChan_reply : (s.setChan c ch).reply = s.reply := rfl
@[simp] theorem State.setChan_ipl : (s.setChan c ch).ipl = s.ipl := rfl
@[simp] theorem State.setChan_resetReads : (s.setChan c ch).resetReads = s.resetReads := rfl
@[simp] theorem State.setChan_pending : (s.setChan c ch).pending = s.pending := rfl

end Sys2Proof.Machine
end

