-- ==== Sys2Proof/Laws/Draws.lean ====
section
/-! SUPPORT. The laws of the draws: a clock reading is never earlier than the one before it, and the other draws do
not touch the clock (R311). -/

namespace Sys2Proof.Machine

theorem le_laterOf_left (t u : Time) : t ≤ laterOf t u := by
  unfold laterOf
  split
  · assumption
  · exact le_refl t

theorem le_laterOf_right (t u : Time) : u ≤ laterOf t u := by
  unfold laterOf
  split
  · exact le_refl u
  · rename_i h; exact le_of_lt (not_le.mp h)

/-- The reading drawn is the one remembered. -/
theorem Env.drawNow_clock (e : Env) : e.drawNow.2.clock = e.drawNow.1 := by
  unfold Env.drawNow; split <;> rfl

/-- A drawn reading is at or after the one before it. -/
theorem Env.clock_le_drawNow (e : Env) : e.clock ≤ e.drawNow.1 := by
  unfold Env.drawNow; split <;> exact le_laterOf_left _ _

@[simp] theorem Env.drawBool_clock (e : Env) : e.drawBool.2.clock = e.clock := by
  unfold Env.drawBool; split <;> rfl

@[simp] theorem Env.drawByte_clock (e : Env) : e.drawByte.2.clock = e.clock := by
  unfold Env.drawByte; split <;> rfl

@[simp] theorem enablePair_clock (en dis cur : Bool) (e : Env) : (enablePair en dis cur e).2.clock = e.clock := by
  cases en <;> cases dis <;> simp [enablePair]

end Sys2Proof.Machine
end

