-- ==== Sys2Proof/Laws/Frames.lean ====
section
/-! SUPPORT. The laws of a frame's operands: what the encoder takes apart, the decoder puts together. -/

namespace Sys2Proof

theorem join4_split4 (v : BitVec 32) : join4 (byteOf v 0) (byteOf v 1) (byteOf v 2) (byteOf v 3) = v := by
  apply BitVec.eq_of_getLsbD_eq
  intro i hi
  simp only [join4, byteOf, BitVec.getLsbD_append, BitVec.getLsbD_extractLsb']
  split
  · split
    · rename_i h1 h2; simp [h2]
    · rename_i h1 h2; simp [show i - 8 < 8 by omega, show 8 + (i - 8) = i by omega]
  · split
    · rename_i h1 h2; simp [show i - 16 < 8 by omega, show 16 + (i - 16) = i by omega]
    · rename_i h1 h2; simp [show i - 16 - 8 < 8 by omega, show 24 + (i - 16 - 8) = i by omega]

theorem split4_join4 (b0 b1 b2 b3 : Byte) : split4 (join4 b0 b1 b2 b3) = [b0, b1, b2, b3] := by
  simp only [split4, List.cons.injEq, and_true]
  refine ⟨?_, ?_, ?_, ?_⟩ <;>
  · apply BitVec.eq_of_getLsbD_eq
    intro i hi
    simp only [join4, byteOf, BitVec.getLsbD_append, BitVec.getLsbD_extractLsb']
    simp [hi, show ¬(24 + i < 16) by omega, show ¬(24 + i - 16 < 8) by omega, show 24 + i - 16 - 8 = i by omega,
      show ¬(16 + i < 16) by omega]
    try omega

theorem join2_byteOf (v : Half) : join2 (byteOf v 0) (byteOf v 1) = v := by
  apply BitVec.eq_of_getLsbD_eq
  intro i hi
  simp only [join2, byteOf, BitVec.getLsbD_append, BitVec.getLsbD_extractLsb']
  split
  · rename_i h; simp [h]
  · simp [show i - 8 < 8 by omega, show 8 + (i - 8) = i by omega]

theorem byteOf_join2 (b0 b1 : Byte) : byteOf (join2 b0 b1) 0 = b0 ∧ byteOf (join2 b0 b1) 1 = b1 := by
  constructor <;>
  · apply BitVec.eq_of_getLsbD_eq
    intro i hi
    simp only [join2, byteOf, BitVec.getLsbD_append, BitVec.getLsbD_extractLsb']
    simp [hi]

/-- A level that fits the frame comes back from its bytes. -/
theorem toInt_ofInt_of_levelFits {level : Int} (h : levelFits level = true) :
    (BitVec.ofInt 32 level).toInt = level := by
  simp only [levelFits, Bool.and_eq_true, decide_eq_true_eq] at h
  rw [BitVec.toInt_ofInt]
  exact Int.bmod_eq_of_le (by omega) (by omega)

/-- Every level a frame carries fits it. -/
theorem levelFits_toInt (v : BitVec 32) : levelFits v.toInt = true := by
  have h1 := BitVec.le_toInt v
  have h2 := BitVec.toInt_lt (x := v)
  simp only [levelFits, Bool.and_eq_true, decide_eq_true_eq]
  omega

end Sys2Proof
end

