-- ==== Sys2Proof/Laws/Memory.lean ====
section
/-! SUPPORT. The laws of a memory: what a store changes, that it keeps the canonical form, and that canonical memories
with the same bytes are equal. -/

namespace Sys2Proof.Machine

theorem memRead_cellFor_append (a b : Nat) (v : Byte) (m : Memory) :
    memRead (cellFor a v ++ m) b =
      if v = Config.unlistedByte then memRead m b else if a = b then v else memRead m b := by
  unfold cellFor
  split <;> simp [memRead]

/-- An index below every listed one reads as unlisted. -/
theorem memRead_risesFrom {lo a : Nat} {m : Memory} (h : Memory.risesFrom lo m = true) (ha : a < lo) :
    memRead m a = Config.unlistedByte := by
  induction m generalizing lo with
  | nil => rfl
  | cons c rest ih =>
    obtain ⟨k, w⟩ := c
    simp only [Memory.risesFrom, Bool.and_eq_true, decide_eq_true_eq] at h
    have hk : k ≠ a := by omega
    simp only [memRead, if_neg hk]
    exact ih h.2 (by omega)

/-- A store puts its byte at its index, in a canonical memory. -/
theorem memRead_memWrite_same {lo : Nat} {m : Memory} (h : Memory.risesFrom lo m = true) (a : Nat) (v : Byte) :
    memRead (memWrite m a v) a = v := by
  induction m generalizing lo with
  | nil => unfold memWrite cellFor; split <;> simp_all [memRead]
  | cons c rest ih =>
    obtain ⟨k, w⟩ := c
    simp only [Memory.risesFrom, Bool.and_eq_true, decide_eq_true_eq] at h
    simp only [memWrite]
    split
    · rename_i hlt
      simp only [memRead, if_neg (show k ≠ a by omega)]
      exact ih h.2
    · split
      · rename_i heq
        rw [memRead_cellFor_append]
        split
        · rw [memRead_risesFrom h.2 (by omega)]; simp_all
        · simp
      · rw [memRead_cellFor_append]
        split
        · simp only [memRead, if_neg (show k ≠ a by omega)]
          rw [memRead_risesFrom h.2 (by omega)]; simp_all
        · simp

/-- A store leaves every other index alone. -/
theorem memRead_memWrite_other (m : Memory) {a b : Nat} (v : Byte) (hab : a ≠ b) :
    memRead (memWrite m a v) b = memRead m b := by
  induction m with
  | nil => unfold memWrite cellFor; split <;> simp [memRead, hab]
  | cons c rest ih =>
    obtain ⟨k, w⟩ := c
    simp only [memWrite]
    split
    · simp only [memRead, ih]
    · split
      · rename_i heq
        rw [memRead_cellFor_append]
        simp only [memRead, if_neg hab, if_neg (show k ≠ b by omega), ite_self]
      · rw [memRead_cellFor_append]
        simp only [if_neg hab, ite_self]

theorem risesFrom_mono {lo lo' : Nat} {m : Memory} (h : Memory.risesFrom lo m = true) (hle : lo' ≤ lo) :
    Memory.risesFrom lo' m = true := by
  cases m with
  | nil => rfl
  | cons c rest =>
    simp only [Memory.risesFrom, Bool.and_eq_true, decide_eq_true_eq] at h ⊢
    exact ⟨⟨by omega, h.1.2⟩, h.2⟩

theorem risesFrom_cellFor_append {lo a : Nat} {v : Byte} {m : Memory} (hlo : lo ≤ a)
    (h : Memory.risesFrom (a + 1) m = true) : Memory.risesFrom lo (cellFor a v ++ m) = true := by
  unfold cellFor
  split
  · exact risesFrom_mono h (by omega)
  · simp_all [Memory.risesFrom]

theorem risesFrom_memWrite {lo a : Nat} {m : Memory} (v : Byte) (h : Memory.risesFrom lo m = true) (hlo : lo ≤ a) :
    Memory.risesFrom lo (memWrite m a v) = true := by
  induction m generalizing lo with
  | nil =>
    have := risesFrom_cellFor_append (v := v) (m := []) hlo rfl
    simpa [memWrite] using this
  | cons c rest ih =>
    obtain ⟨k, w⟩ := c
    have h' := h
    simp only [Memory.risesFrom, Bool.and_eq_true, decide_eq_true_eq] at h
    simp only [memWrite]
    split
    · simp only [Memory.risesFrom, Bool.and_eq_true, decide_eq_true_eq]
      exact ⟨h.1, ih h.2 (by omega)⟩
    · split
      · rename_i heq
        subst heq
        exact risesFrom_cellFor_append hlo h.2
      · apply risesFrom_cellFor_append hlo
        simp only [Memory.risesFrom, Bool.and_eq_true, decide_eq_true_eq]
        exact ⟨⟨by omega, h.1.2⟩, h.2⟩

/-- A store keeps the canonical form. -/
theorem memWrite_wf {m : Memory} (h : m.wf = true) (a : Nat) (v : Byte) : (memWrite m a v).wf = true :=
  risesFrom_memWrite v h (Nat.zero_le a)

theorem Memory.below_cons (c : Host.Cell) (m : Memory) (n : Nat) :
    Memory.below (c :: m) n = (decide (c.1 < n) && Memory.below m n) := rfl

theorem below_cellFor_append {a n : Nat} {v : Byte} {m : Memory} (ha : a < n) (h : Memory.below m n = true) :
    Memory.below (cellFor a v ++ m) n = true := by
  unfold cellFor
  split
  · exact h
  · simp [Memory.below_cons, ha, h]

/-- A store inside a buffer keeps every listed index inside it. -/
theorem memWrite_below {m : Memory} {a n : Nat} (v : Byte) (ha : a < n) (h : Memory.below m n = true) :
    Memory.below (memWrite m a v) n = true := by
  induction m with
  | nil => simpa [memWrite] using below_cellFor_append (v := v) (m := []) ha rfl
  | cons c rest ih =>
    have h' := h
    rw [Memory.below_cons, Bool.and_eq_true] at h'
    obtain ⟨k, w⟩ := c
    simp only [memWrite]
    split
    · rw [Memory.below_cons, ih h'.2, Bool.and_true]
      exact h'.1
    · split
      · exact below_cellFor_append ha h'.2
      · exact below_cellFor_append ha h

/-- Canonical memories with the same bytes are the same list. -/
theorem risesFrom_ext {lo : Nat} {m m' : Memory} (h : Memory.risesFrom lo m = true)
    (h' : Memory.risesFrom lo m' = true) (hr : ∀ a, memRead m a = memRead m' a) : m = m' := by
  induction m generalizing lo m' with
  | nil =>
    cases m' with
    | nil => rfl
    | cons c rest =>
      obtain ⟨k, w⟩ := c
      simp only [Memory.risesFrom, Bool.and_eq_true, decide_eq_true_eq] at h'
      have := hr k
      simp [memRead] at this
      exact absurd this.symm h'.1.2
  | cons c rest ih =>
    obtain ⟨k, w⟩ := c
    have h0 := h
    simp only [Memory.risesFrom, Bool.and_eq_true, decide_eq_true_eq] at h
    cases m' with
    | nil =>
      have := hr k
      simp [memRead] at this
      exact absurd this h.1.2
    | cons c' rest' =>
      obtain ⟨k', w'⟩ := c'
      have h0' := h'
      simp only [Memory.risesFrom, Bool.and_eq_true, decide_eq_true_eq] at h'
      rcases Nat.lt_trichotomy k k' with hlt | heq | hgt
      · have e := hr k
        simp only [memRead, if_true, if_neg (show k' ≠ k by omega)] at e
        rw [memRead_risesFrom h'.2 (by omega)] at e
        exact absurd e h.1.2
      · subst heq
        have e := hr k
        simp only [memRead, if_true] at e
        subst e
        have : rest = rest' := by
          refine ih h.2 h'.2 fun a => ?_
          have e := hr a
          by_cases hka : k = a
          · subst hka
            rw [memRead_risesFrom h.2 (by omega), memRead_risesFrom h'.2 (by omega)]
          · simpa only [memRead, if_neg hka] using e
        rw [this]
      · have e := hr k'
        simp only [memRead, if_true, if_neg (show k ≠ k' by omega)] at e
        rw [memRead_risesFrom h.2 (by omega)] at e
        exact absurd e.symm h'.1.2

theorem mem_ext {m m' : Memory} (h : m.wf = true) (h' : m'.wf = true) (hr : ∀ a, memRead m a = memRead m' a) :
    m = m' :=
  risesFrom_ext h h' hr

end Sys2Proof.Machine
end

