-- ==== Sys2Proof/Laws/Timer.lean ====
section
/-! SUPPORT. The laws of the counter/timer: what a start, a stop and a check can do, and that each keeps
`Timer.Inv`. -/

namespace Sys2Proof.Machine

theorem timerFreq_nonneg (d : Nat) (ctr : Half) : 0 ≤ timerFreq d ctr := by
  unfold timerFreq Config.crystalHz
  positivity

theorem timerInterval_nonneg (q : IntervalQuant) (d : Nat) (ctr : Half) : 0 ≤ timerInterval q d ctr := by
  cases q with
  | exact => exact div_nonneg (by norm_num) (timerFreq_nonneg d ctr)
  | host => exact le_laterOf_left _ _

/-- What a check can do: nothing, where the timer is stopped or the next boundary is ahead; otherwise it moves the
window on. -/
theorem timerCheck_cases (p : Bool) (now : Time) (t : Timer) :
    (t.started = false ∧ timerCheck p now t = (false, t)) ∨
    (t.started = true ∧ t.next ≤ now ∧
      timerCheck p now t =
        (true, { t with cur := t.next, next := now + t.interval, ack := if p then false else t.ack })) ∨
    (t.started = true ∧ now < t.next ∧ t.cur ≤ now ∧ timerCheck p now t = (!t.ack, t)) ∨
    (t.started = true ∧ now < t.next ∧ now < t.cur ∧ timerCheck p now t = (false, t)) := by
  unfold timerCheck
  cases h : t.started with
  | false => simp
  | true =>
    by_cases h1 : t.next ≤ now
    · simp [h1]
    · by_cases h2 : t.cur ≤ now <;> simp [h1, h2, not_le.mp h1, not_le.mp]

theorem timerCheck_inv (p : Bool) (now : Time) {t : Timer} (h : t.Inv) : (timerCheck p now t).2.Inv := by
  rcases timerCheck_cases p now t with ⟨-, e⟩ | ⟨hs, hn, e⟩ | ⟨-, -, -, e⟩ | ⟨-, -, -, e⟩ <;> rw [e]
  · exact h
  · intro _
    obtain ⟨h0, -⟩ := h hs
    exact ⟨h0, by simp only; linarith⟩
  · exact h
  · exact h

theorem timerStart_inv (p : Params) (acr : Byte) (ctr : Half) (now : Time) (t : Timer) :
    (timerStart p acr ctr now t).Inv := by
  unfold timerStart
  split
  · intro h; cases h
  · split
    · intro h; cases h
    · intro _
      have := timerInterval_nonneg p.intervalQuant ‹Nat› ctr
      exact ⟨this, by simp only; linarith⟩

end Sys2Proof.Machine
end

