-- ==== Sys2Proof/Laws/Moves.lean ====
section
/-! SUPPORT. What each shared operation can do, said once. `Moves s t` is all that an operation below a transaction
can change: RAM, chip, draws and traces. -/

namespace Sys2Proof.Machine

/-- `t` differs from `s` in RAM, chip, draws, traces and reply alone; the transmit trace only grows, the clock does not
run back, what is good of RAM and chip stays good, and standby is not entered unless configured. -/
structure Moves (s t : State) : Prop where
  params : t.params = s.params
  rom : t.rom = s.rom
  overlay : t.overlay = s.overlay
  slots : t.slots = s.slots
  ipl : t.ipl = s.ipl
  resetReads : t.resetReads = s.resetReads
  pending : t.pending = s.pending
  trace : ∃ new, t.txTrace = s.txTrace ++ new
  clock : s.env.clock ≤ t.env.clock
  chip : s.duart.Inv → t.duart.Inv
  ramWf : s.ram.wf = true → t.ram.wf = true
  ramBelow : s.ram.below Config.ramSize = true → t.ram.below Config.ramSize = true
  standby : s.params.cmdCEntersStandby = false → s.duart.standby = false → t.duart.standby = false

theorem Moves.refl (s : State) : Moves s s where
  params := rfl
  rom := rfl
  overlay := rfl
  slots := rfl
  ipl := rfl
  resetReads := rfl
  pending := rfl
  trace := ⟨[], by simp⟩
  clock := le_refl _
  chip := id
  ramWf := id
  ramBelow := id
  standby := fun _ h => h

theorem Moves.trans {s t u : State} (h : Moves s t) (k : Moves t u) : Moves s u where
  params := k.params.trans h.params
  rom := k.rom.trans h.rom
  overlay := k.overlay.trans h.overlay
  slots := k.slots.trans h.slots
  ipl := k.ipl.trans h.ipl
  resetReads := k.resetReads.trans h.resetReads
  pending := k.pending.trans h.pending
  trace := by
    obtain ⟨a, ha⟩ := h.trace
    obtain ⟨b, hb⟩ := k.trace
    exact ⟨a ++ b, by rw [hb, ha, List.append_assoc]⟩
  clock := le_trans h.clock k.clock
  chip := fun i => k.chip (h.chip i)
  ramWf := fun i => k.ramWf (h.ramWf i)
  ramBelow := fun i => k.ramBelow (h.ramBelow i)
  standby := fun p i => k.standby (by rw [h.params]; exact p) (h.standby p i)

/-! ## Single updates -/

/-- A chip update that keeps the chip good and does not enter standby. -/
theorem Moves.withDuart (s : State) (d : Duart) (hi : s.duart.Inv → d.Inv)
    (hs : s.duart.standby = false → d.standby = false) : Moves s (s.withDuart d) :=
  { Moves.refl s with chip := hi, standby := fun _ => hs }

theorem Moves.withEnv (s : State) (e : Env) (h : s.env.clock ≤ e.clock) : Moves s (s.withEnv e) :=
  { Moves.refl s with clock := h }

theorem Moves.withReply (s : State) (r : Reply) : Moves s (s.withReply r) := { Moves.refl s with }

theorem Moves.withTxTrace (s : State) (new : List TxEvent) : Moves s (s.withTxTrace (s.txTrace ++ new)) :=
  { Moves.refl s with trace := ⟨new, rfl⟩ }

theorem Moves.withResetTrace (s : State) (tr : List Byte) : Moves s (s.withResetTrace tr) := { Moves.refl s with }

/-- A channel update that keeps the FIFO within its capacity. -/
theorem Moves.setChan (s : State) (c : ChanId) (ch : Channel) (h : (s.chan c).Inv → ch.Inv) :
    Moves s (s.setChan c ch) := by
  refine Moves.withDuart s _ ?_ ?_
  · rintro ⟨h1, h2, h3, h4, h5⟩
    cases c
    · exact ⟨h1, h2, h3, h h4, h5⟩
    · exact ⟨h1, h2, h3, h4, h h5⟩
  · intro hs
    rw [Duart.setChan_standby]
    exact hs

/-! ## Channel operations -/

theorem readMode_moves (c : ChanId) (s : State) : Moves s (readMode c s).2 := Moves.setChan s c _ id

theorem readHolding_moves (c : ChanId) (s : State) : Moves s (readHolding c s).2 := by
  unfold readHolding
  split
  · exact Moves.refl s
  · rename_i b rest h
    refine Moves.setChan s c _ fun hi => ?_
    have : rest.length + 1 ≤ Config.fifoCap := by simpa [Channel.Inv, h] using hi
    exact Nat.le_of_succ_le this

theorem Channel.storeMode_fifo (ch : Channel) (v : Byte) : (ch.storeMode v).fifo = ch.fifo := by
  unfold Channel.storeMode; split <;> rfl

theorem writeMode_moves (c : ChanId) (v : Byte) (s : State) : Moves s (writeMode c v s) :=
  Moves.setChan s c _ fun h => by rw [Channel.Inv, Channel.storeMode_fifo]; exact h

theorem writeClockSelect_moves (c : ChanId) (v : Byte) (s : State) : Moves s (writeClockSelect c v s) :=
  Moves.setChan s c _ id

theorem applyEnables_moves (c : ChanId) (v : Byte) (s : State) : Moves s (applyEnables c v s) := by
  refine (Moves.setChan s c { s.chan c with rxEn := (rxPair c v s).1, txEn := (txPair c v s).1 } id).trans
    (Moves.withEnv _ _ ?_)
  simp [txPair, rxPair]

theorem commandEffect_moves (c : ChanId) (code : BitVec 4) (s : State) : Moves s (commandEffect c code s) := by
  unfold commandEffect
  split
  · exact Moves.setChan s c _ id
  · exact Moves.setChan s c _ fun _ => Nat.zero_le _
  · split
    · rename_i h
      exact { Moves.refl s with chip := id, standby := fun hp => by rw [hp] at h; cases h }
    · exact Moves.refl s
  · exact Moves.refl s

theorem writeCommand_moves (c : ChanId) (v : Byte) (s : State) : Moves s (writeCommand c v s) :=
  (applyEnables_moves c v s).trans (commandEffect_moves c _ _)

theorem writeHolding_moves (c : ChanId) (v : Byte) (s : State) : Moves s (writeHolding c v s) := by
  unfold writeHolding
  split
  · exact Moves.withTxTrace s _
  · exact Moves.refl s

theorem receiveByte_moves (c : ChanId) (b : Byte) (s : State) : Moves s (receiveByte c b s) := by
  unfold receiveByte
  split
  · split
    · exact Moves.refl s
    · rename_i h
      refine Moves.setChan s c _ fun hi => ?_
      simp only [Channel.Inv, List.length_append, List.length_singleton] at hi ⊢
      omega
  · exact Moves.refl s

/-! ## Chip operations -/

theorem evalIsr_moves (s : State) : Moves s (evalIsr s).2 := by
  refine (Moves.withEnv s s.env.drawNow.2 ?_).trans (Moves.withDuart _ _ ?_ id)
  · rw [Env.drawNow_clock]; exact Env.clock_le_drawNow _
  · rintro ⟨h1, h2, h3, h4, h5⟩
    exact ⟨h1, h2, timerCheck_inv _ _ h3, h4, h5⟩

theorem readStart_moves (s : State) : Moves s (readStart s).2 := by
  refine (Moves.withEnv s s.env.drawNow.2 ?_).trans (Moves.withDuart _ _ ?_ id)
  · rw [Env.drawNow_clock]; exact Env.clock_le_drawNow _
  · rintro ⟨h1, h2, -, h4, h5⟩
    exact ⟨h1, h2, timerStart_inv _ _ _ _ _, h4, h5⟩

/-- What a register read outside standby can do. -/
theorem readReg_moves (r : BitVec 4) (s : State) : Moves s (readReg r s).2 := by
  unfold readReg
  split
  · exact readMode_moves _ _
  · exact Moves.refl s
  · exact evalIsr_moves s
  · exact readHolding_moves _ _
  · exact Moves.withDuart s _ (fun ⟨h1, _, h3, h4, h5⟩ => ⟨h1, (by decide : (0#8).toNat < 64), h3, h4, h5⟩) id
  · exact evalIsr_moves s
  · exact Moves.refl s
  · exact Moves.refl s
  · exact readMode_moves _ _
  · exact Moves.refl s
  · exact Moves.refl s
  · exact readHolding_moves _ _
  · exact Moves.refl s
  · exact Moves.refl s
  · exact readStart_moves s
  · exact Moves.withDuart s _ (fun ⟨h1, h2, h3, h4, h5⟩ => ⟨h1, h2, h3, h4, h5⟩) id

/-- What a register write outside standby can do. -/
theorem writeReg_moves (r : BitVec 4) (v : Byte) (s : State) : Moves s (writeReg r v s) := by
  unfold writeReg
  split
  · exact writeMode_moves _ _ _
  · exact writeClockSelect_moves _ _ _
  · exact writeCommand_moves _ _ _
  · exact writeHolding_moves _ _ _
  · exact Moves.withDuart s _ id id
  · exact Moves.withDuart s _ id id
  · exact Moves.withDuart s _ id id
  · exact Moves.withDuart s _ id id
  · exact writeMode_moves _ _ _
  · exact writeClockSelect_moves _ _ _
  · exact writeCommand_moves _ _ _
  · exact writeHolding_moves _ _ _
  · exact Moves.withDuart s _ id id
  · exact Moves.refl s
  · exact Moves.withDuart s _ id id
  · exact Moves.withDuart s _ id id

theorem gatedRead_moves {f : State → Byte × State} {s : State} (h : Moves s (f s).2) :
    Moves s (gatedRead f s).2 := by
  unfold gatedRead
  split
  · exact Moves.refl s
  · exact h

theorem gatedWrite_moves {f : State → State} {s : State} (r : BitVec 4) (v : Byte) (h : Moves s (f s)) :
    Moves s (gatedWrite r v f s) := by
  unfold gatedWrite
  split
  · split
    · exact Moves.withDuart s _ id fun _ => rfl
    · exact Moves.refl s
  · exact h

theorem duartRead_moves (r : BitVec 4) (s : State) : Moves s (duartRead r s).2 :=
  gatedRead_moves (readReg_moves r s)

theorem duartWrite_moves (r : BitVec 4) (v : Byte) (s : State) : Moves s (duartWrite r v s) :=
  gatedWrite_moves r v (writeReg_moves r v s)

theorem Duart.setInput_inv {d : Duart} (h : d.Inv) (v : Byte) : (d.setInput v).Inv := by
  obtain ⟨h1, -, h3, h4, h5⟩ := h
  have hv : (v &&& 0x3F).toNat < 2 ^ 6 := by
    rw [BitVec.toNat_and]
    exact Nat.lt_of_le_of_lt Nat.and_le_right (by decide)
  refine ⟨hv, ?_, h3, h4, h5⟩
  show (d.ipValue ^^^ (v &&& 0x3F)).toNat < 2 ^ 6
  rw [BitVec.toNat_xor]
  exact Nat.xor_lt_two_pow h1 hv

theorem Duart.reset_inv {d : Duart} (h : d.Inv) : d.reset.Inv :=
  ⟨h.1, (by decide : (0#8).toNat < 64), fun hs => absurd hs (by simp [Duart.reset]), Nat.zero_le _,
    Nat.zero_le _⟩

/-! ## Bus operations -/

theorem ioRead_moves (a : BusAddr) (s : State) : Moves s (ioRead a s).2 := by
  unfold ioRead
  split
  · exact duartRead_moves _ s
  · exact Moves.refl s

theorem ioWrite_moves (a : BusAddr) (v : Byte) (s : State) : Moves s (ioWrite a v s) := by
  unfold ioWrite
  split
  · exact duartWrite_moves _ v s
  · exact Moves.refl s

/-- What a byte read that has a meaning can do: nothing outside the I/O window. -/
theorem busRead8_cases {a : BusAddr} {s : State} {x : Byte × State} (h : busRead8 a s = .ok x) :
    x.2 = s ∨ (regionOf s.params a = .io ∧ x = ioRead a s) := by
  unfold busRead8 overlayRead at h
  split at h
  · split at h
    · split at h <;> simp_all [Prod.ext_iff]
    · simp_all [Prod.ext_iff]
  · split at h
    · split at h <;> simp_all [Prod.ext_iff]
    · simp_all [Prod.ext_iff]
  · simp_all [Prod.ext_iff]
  · simp_all

theorem busRead8_moves {a : BusAddr} {s : State} {x : Byte × State} (h : busRead8 a s = .ok x) : Moves s x.2 := by
  rcases busRead8_cases h with h | ⟨-, h⟩
  · rw [h]; exact Moves.refl s
  · rw [h]; exact ioRead_moves a s

/-- What a byte write that has a meaning can do. -/
theorem busWrite8_cases {a : BusAddr} {v : Byte} {s t : State} (h : busWrite8 a v s = .ok t) :
    t = s ∨ (regionOf s.params a = .low ∧ s.overlay = false ∧ t = s.withRam (memWrite s.ram a.toNat v)) ∨
      (regionOf s.params a = .io ∧ t = ioWrite a v s) := by
  unfold busWrite8 at h
  split at h
  · split at h <;> simp_all
  · split at h <;> simp_all
  · simp_all
  · simp_all

theorem lt_ramSize_of_low {p : Params} {a : BusAddr} (h : regionOf p a = .low) : a.toNat < Config.ramSize := by
  unfold regionOf at h
  have : Config.ramSize = 0x100000 := rfl
  split at h
  · omega
  · split at h
    · cases h
    · split at h
      · cases h
      · split at h <;> cases h

theorem busWrite8_moves {a : BusAddr} {v : Byte} {s t : State} (h : busWrite8 a v s = .ok t) : Moves s t := by
  rcases busWrite8_cases h with h | ⟨hr, -, h⟩ | ⟨-, h⟩
  · rw [h]; exact Moves.refl s
  · rw [h]
    exact { Moves.refl s with
      ramWf := fun hw => memWrite_wf hw _ _
      ramBelow := fun hb => memWrite_below _ (lt_ramSize_of_low hr) hb }
  · rw [h]; exact ioWrite_moves a v s

/-- A word read that has a meaning is two byte reads. -/
theorem busRead16_cases {a : BusAddr} {s : State} {x : Half × State} (h : busRead16 a s = .ok x) :
    ∃ hi lo, busRead8 a s = .ok hi ∧ busRead8 (nextAddr a) hi.2 = .ok lo ∧ x = (hi.1 ++ lo.1, lo.2) := by
  unfold busRead16 at h
  split at h
  · cases h
  · rename_i hi e
    split at h
    · cases h
    · rename_i lo e'
      exact ⟨hi, lo, e, e', (Except.ok.inj h).symm⟩

theorem busRead16_moves {a : BusAddr} {s : State} {x : Half × State} (h : busRead16 a s = .ok x) : Moves s x.2 := by
  obtain ⟨hi, lo, h1, h2, rfl⟩ := busRead16_cases h
  exact (busRead8_moves h1).trans (busRead8_moves h2)

/-- A word write that has a meaning is two byte writes. -/
theorem busWrite16_cases {a : BusAddr} {v : Half} {s t : State} (h : busWrite16 a v s = .ok t) :
    ∃ s1, busWrite8 a (v.extractLsb' 8 8) s = .ok s1 ∧ busWrite8 (nextAddr a) (v.setWidth 8) s1 = .ok t := by
  unfold busWrite16 at h
  split at h
  · cases h
  · exact ⟨_, ‹_›, h⟩

theorem busWrite16_moves {a : BusAddr} {v : Half} {s t : State} (h : busWrite16 a v s = .ok t) : Moves s t := by
  obtain ⟨s1, h1, h2⟩ := busWrite16_cases h
  exact (busWrite8_moves h1).trans (busWrite8_moves h2)

theorem runBusCall_moves {c : BusCall} {s : State} {x : Reply × State} (h : runBusCall c s = .ok x) :
    Moves s x.2 := by
  unfold runBusCall at h
  split at h <;> split at h <;> cases h <;> rename_i e
  · exact busRead8_moves e
  · exact busRead16_moves e
  · exact busWrite8_moves e
  · exact busWrite16_moves e

theorem runBusCalls_moves {cs : List BusCall} {s t : State} {rs : List Reply}
    (h : runBusCalls cs s = .ok (rs, t)) : Moves s t := by
  induction cs generalizing s t rs with
  | nil => cases h; exact Moves.refl s
  | cons c rest ih =>
    unfold runBusCalls at h
    split at h
    · cases h
    · rename_i y e
      split at h
      · cases h
      · rename_i z e'
        cases h
        exact (runBusCall_moves e).trans (ih (t := z.2) (rs := z.1) e')

/-! ## Controller operations -/

theorem duartPoll_moves (s : State) : Moves s (duartPoll s).2 := by
  unfold duartPoll
  split
  · exact Moves.refl s
  · exact evalIsr_moves s

theorem pollSource_moves (src : SourceId) (s : State) : Moves s (pollSource src s).2 := by
  cases src with
  | duart => exact duartPoll_moves s
  | extra k => exact Moves.withEnv s _ (by simp)

theorem pollSlots_moves (order : List (Fin 7)) (ipl : BitVec 3) (s : State) : Moves s (pollSlots order ipl s).2 := by
  induction order generalizing ipl s with
  | nil => exact Moves.refl s
  | cons i rest ih =>
    unfold pollSlots
    split
    · exact (pollSource_moves _ s).trans (ih _ _)
    · exact ih _ _

theorem pollAt_moves (slots : Vector (Option Slot) 7) (i : Fin 7) (s : State) : Moves s (pollAt slots i s).2 := by
  unfold pollAt
  split
  · exact pollSource_moves _ s
  · exact Moves.refl s

@[simp] theorem afterPolls_nil (slots : Vector (Option Slot) 7) (s : State) : afterPolls slots [] s = s := rfl

@[simp] theorem afterPolls_cons (slots : Vector (Option Slot) 7) (i : Fin 7) (rest : List (Fin 7)) (s : State) :
    afterPolls slots (i :: rest) s = afterPolls slots rest (pollAt slots i s).2 := rfl

theorem afterPolls_append (slots : Vector (Option Slot) 7) (before later : List (Fin 7)) (s : State) :
    afterPolls slots (before ++ later) s = afterPolls slots later (afterPolls slots before s) :=
  List.foldl_append ..

theorem afterPolls_moves (slots : Vector (Option Slot) 7) (order : List (Fin 7)) (s : State) :
    Moves s (afterPolls slots order s) := by
  induction order generalizing s with
  | nil => exact Moves.refl s
  | cons i rest ih => exact (pollAt_moves slots i s).trans (ih _)

theorem readVector_moves (level : Int) (s : State) : Moves s (readVector level s).2 := by
  unfold readVector
  split
  · exact Moves.refl s
  · split
    · rename_i src _
      cases src with
      | duart => exact Moves.refl s
      | extra k => exact Moves.withEnv s _ (by simp)
    · exact Moves.refl s

theorem resetSource_moves (src : SourceId) (s : State) : Moves s (resetSource src s) := by
  cases src with
  | duart => exact Moves.withDuart s _ Duart.reset_inv id
  | extra k => exact Moves.withResetTrace s _

theorem resetSlots_moves (order : List (Fin 7)) (s : State) : Moves s (resetSlots order s) := by
  induction order generalizing s with
  | nil => exact Moves.refl s
  | cons i rest ih =>
    unfold resetSlots
    split
    · exact (resetSource_moves _ s).trans (ih _)
    · exact ih _

end Sys2Proof.Machine
end

