-- ==== Sys2Proof/Laws/PerInstr.lean ====
section
/-! SUPPORT. Statements for all transactions, one lemma per constructor of Instr. -/

namespace Sys2Proof.Laws.FrameSize

/-- The frame of a transaction has one byte at least and seven at most, the length a table word is padded to. -/
def Statement (i : Instr) : Prop := 1 ≤ (encode i).length ∧ (encode i).length ≤ 7

theorem size_of_bounds {i : Instr} (h : Nat.ble 1 (encode i).length = true) (k : Nat.ble (encode i).length 7 = true) :
    Statement i :=
  ⟨Nat.le_of_ble_eq_true h, Nat.le_of_ble_eq_true k⟩

theorem duartRMra : Statement .duartRMra := size_of_bounds rfl rfl
theorem duartRSra : Statement .duartRSra := size_of_bounds rfl rfl
theorem duartRMisr : Statement .duartRMisr := size_of_bounds rfl rfl
theorem duartRRhra : Statement .duartRRhra := size_of_bounds rfl rfl
theorem duartRIpcr : Statement .duartRIpcr := size_of_bounds rfl rfl
theorem duartRIsr : Statement .duartRIsr := size_of_bounds rfl rfl
theorem duartRCtu : Statement .duartRCtu := size_of_bounds rfl rfl
theorem duartRCtl : Statement .duartRCtl := size_of_bounds rfl rfl
theorem duartRMrb : Statement .duartRMrb := size_of_bounds rfl rfl
theorem duartRSrb : Statement .duartRSrb := size_of_bounds rfl rfl
theorem duartRNoneA : Statement .duartRNoneA := size_of_bounds rfl rfl
theorem duartRRhrb : Statement .duartRRhrb := size_of_bounds rfl rfl
theorem duartRIvr : Statement .duartRIvr := size_of_bounds rfl rfl
theorem duartRIp : Statement .duartRIp := size_of_bounds rfl rfl
theorem duartRStart : Statement .duartRStart := size_of_bounds rfl rfl
theorem duartRStop : Statement .duartRStop := size_of_bounds rfl rfl
theorem duartWMra (v : Byte) : Statement (.duartWMra v) := size_of_bounds rfl rfl
theorem duartWCsra (v : Byte) : Statement (.duartWCsra v) := size_of_bounds rfl rfl
theorem duartWCra (v : Byte) : Statement (.duartWCra v) := size_of_bounds rfl rfl
theorem duartWThra (v : Byte) : Statement (.duartWThra v) := size_of_bounds rfl rfl
theorem duartWAcr (v : Byte) : Statement (.duartWAcr v) := size_of_bounds rfl rfl
theorem duartWImr (v : Byte) : Statement (.duartWImr v) := size_of_bounds rfl rfl
theorem duartWCtu (v : Byte) : Statement (.duartWCtu v) := size_of_bounds rfl rfl
theorem duartWCtl (v : Byte) : Statement (.duartWCtl v) := size_of_bounds rfl rfl
theorem duartWMrb (v : Byte) : Statement (.duartWMrb v) := size_of_bounds rfl rfl
theorem duartWCsrb (v : Byte) : Statement (.duartWCsrb v) := size_of_bounds rfl rfl
theorem duartWCrb (v : Byte) : Statement (.duartWCrb v) := size_of_bounds rfl rfl
theorem duartWThrb (v : Byte) : Statement (.duartWThrb v) := size_of_bounds rfl rfl
theorem duartWIvr (v : Byte) : Statement (.duartWIvr v) := size_of_bounds rfl rfl
theorem duartWOpcr (v : Byte) : Statement (.duartWOpcr v) := size_of_bounds rfl rfl
theorem duartWSopr (v : Byte) : Statement (.duartWSopr v) := size_of_bounds rfl rfl
theorem duartWRopr (v : Byte) : Statement (.duartWRopr v) := size_of_bounds rfl rfl
theorem duartWWake (c : ChanId) (lo : BitVec 4) : Statement (.duartWWake c lo) :=
  match c with
  | .a => size_of_bounds rfl rfl
  | .b => size_of_bounds rfl rfl
theorem busRead8 (addr : CpuAddr) : Statement (.busRead8 addr) := size_of_bounds rfl rfl
theorem busWrite8 (addr : CpuAddr) (v : Byte) : Statement (.busWrite8 addr v) := size_of_bounds rfl rfl
theorem busRead16 (addr : CpuAddr) : Statement (.busRead16 addr) := size_of_bounds rfl rfl
theorem busWrite16 (addr : CpuAddr) (v : Half) : Statement (.busWrite16 addr v) := size_of_bounds rfl rfl
theorem busIackVector (level : BitVec 3) : Statement (.busIackVector level) := size_of_bounds rfl rfl
theorem icSourceAdd (src : SourceId) (level : Int) : Statement (.icSourceAdd src level) :=
  match src with
  | .duart => size_of_bounds rfl rfl
  | .extra _ => size_of_bounds rfl rfl
theorem icSourceRemoveLevel (level : Int) : Statement (.icSourceRemoveLevel level) := size_of_bounds rfl rfl
theorem icSourceRemoveSrc (src : SourceId) : Statement (.icSourceRemoveSrc src) :=
  match src with
  | .duart => size_of_bounds rfl rfl
  | .extra _ => size_of_bounds rfl rfl
theorem icPoll : Statement .icPoll := size_of_bounds rfl rfl
theorem icSourceEnableLevel (level : Int) : Statement (.icSourceEnableLevel level) := size_of_bounds rfl rfl
theorem icSourceEnableSrc (src : SourceId) : Statement (.icSourceEnableSrc src) :=
  match src with
  | .duart => size_of_bounds rfl rfl
  | .extra _ => size_of_bounds rfl rfl
theorem icSourceDisableLevel (level : Int) : Statement (.icSourceDisableLevel level) := size_of_bounds rfl rfl
theorem icSourceDisableSrc (src : SourceId) : Statement (.icSourceDisableSrc src) :=
  match src with
  | .duart => size_of_bounds rfl rfl
  | .extra _ => size_of_bounds rfl rfl
theorem icReadVector (level : Int) : Statement (.icReadVector level) := size_of_bounds rfl rfl
theorem icReset : Statement .icReset := size_of_bounds rfl rfl
theorem hostReceive (c : ChanId) (b : Byte) : Statement (.hostReceive c b) := size_of_bounds rfl rfl
theorem hostSetInputPort (v : Byte) : Statement (.hostSetInputPort v) := size_of_bounds rfl rfl
theorem boardReset : Statement .boardReset := size_of_bounds rfl rfl

end Sys2Proof.Laws.FrameSize
end

