-- ==== Sys2Proof/Tests/Slice0.lean ====
section
/-! SUPPORT. Tests of the model against the spec's own examples and vectors (95_test_vectors.md, and the Example lines
of the rules), the checks of WellFormed, the decoding of every row, and a witness for the hypotheses of each statement.
The expected values are the spec's. -/

set_option Elab.async false

namespace Sys2Proof.Tests

open Sys2Proof Sys2Proof.Machine

/-! ## Small states -/

/-- One look at the state a transaction leaves. -/
def look {α : Type} (f : State → α) (o : Host.Outcome State Fault Refusal) : Option α :=
  match o with
  | .next t => some (f t)
  | _ => none

/-- Why a transaction is refused. -/
def refusal (o : Host.Outcome State Fault Refusal) : Option Refusal :=
  match o with
  | .refused r => some r
  | _ => none

/-- The state after reset with another chip. -/
def withChip (d : Duart) : State := State.reset.withDuart d

/-- A channel with these enables and this FIFO. -/
def channel (rxEn txEn : Bool) (fifo : List Byte) : Channel :=
  { Channel.initial with rxEn := rxEn, txEn := txEn, fifo := fifo }

/-- The state after reset with this channel A. -/
def withA (ch : Channel) : State := withChip { State.reset.duart with chanA := ch }

/-- The start of the spec's table V3. -/
def v3 : State := withChip
  { State.reset.duart with
    chanA := { channel true true [0x41, 0x42, 0x43] with mr0 := 0x13, mr1 := 0x07 }
    chanB := channel true false []
    imr := 0x22, acr := 0x01, ctr := 0x0708, ivr := 0x40, ipValue := 0x05, ipChanges := 0x01 }

/-- The start of the spec's table V5. -/
def v5 : State := withA { channel false false [0x31, 0x32] with mrPtr := 1 }

/-- A chip in standby, as the spec's table V9 has it. -/
def asleep : State := withChip
  { State.reset.duart with
    standby := true, ivr := 0x40, imr := 0x02, ipChanges := 0x01, chanA := channel true false [0x41] }

/-- The harness supplies these answers (R311). -/
def supply (script : List Draw) (s : State) : State := s.withEnv { s.env with script := script }

/-- The start of the spec's table V7, at a clock reading: `acr = 0x60`, `ctr = 1800`. -/
def v7 (now : Time) : State :=
  supply [.clock now] (withChip { State.reset.duart with acr := 0x60, ctr := 1800, imr := 0x08 })

/-- The timer of the spec's R315 example: started at 0 with interval 1. -/
def unitTimer : Timer := { started := true, interval := 1, cur := 1, next := 2, ack := false }

/-- RAM and ROM contents at a few addresses, with other parameters. -/
def board (ram rom : Memory) : State := { State.reset with ram := ram, rom := rom }

/-- A board while the boot overlay is on. -/
def overlaid (ram rom : Memory) : State := (board ram rom).withOverlay true

/-- Slots with one source at one level. -/
def oneSlot (i : Fin 7) (sl : Slot) : State :=
  State.reset.withSlots ((Vector.replicate 7 none).set i.val (some sl) i.isLt)

/-! ## WellFormed: an ill-formed transaction for each check -/

theorem test_wf_add_level_too_large : (Instr.icSourceAdd .duart 2147483648).wf = false := by decide
theorem test_wf_remove_level_too_small : (Instr.icSourceRemoveLevel (-2147483649)).wf = false := by decide
theorem test_wf_enable_level_too_large : (Instr.icSourceEnableLevel 2147483648).wf = false := by decide
theorem test_wf_disable_level_too_small : (Instr.icSourceDisableLevel (-2147483649)).wf = false := by decide
theorem test_wf_vector_level_too_large : (Instr.icReadVector 2147483648).wf = false := by decide
theorem test_wf_level_bounds_pass :
    (Instr.icSourceAdd (.extra 3) (-2147483648)).wf = true ∧ (Instr.icReadVector 2147483647).wf = true := by decide

/-! ## Decoding: every row by a word written out -/

/-- R100: read of register r has code 0rrrr. -/
theorem test_decode_reads :
    [decodeTableWord 8 0b00000, decodeTableWord 8 0b00001, decodeTableWord 8 0b00010, decodeTableWord 8 0b00011,
      decodeTableWord 8 0b00100, decodeTableWord 8 0b00101, decodeTableWord 8 0b00110, decodeTableWord 8 0b00111,
      decodeTableWord 8 0b01000, decodeTableWord 8 0b01001, decodeTableWord 8 0b01010, decodeTableWord 8 0b01011,
      decodeTableWord 8 0b01100, decodeTableWord 8 0b01101, decodeTableWord 8 0b01110, decodeTableWord 8 0b01111] =
    [some .duartRMra, some .duartRSra, some .duartRMisr, some .duartRRhra, some .duartRIpcr, some .duartRIsr,
      some .duartRCtu, some .duartRCtl, some .duartRMrb, some .duartRSrb, some .duartRNoneA, some .duartRRhrb,
      some .duartRIvr, some .duartRIp, some .duartRStart, some .duartRStop] := by decide

/-- R100: write of register r has code 1rrrr; here the data byte that follows is 0xA5. -/
theorem test_decode_writes :
    [decode [0b10000, 0xA5], decode [0b10001, 0xA5], decode [0b10010, 0xA5], decode [0b10011, 0xA5],
      decode [0b10100, 0xA5], decode [0b10101, 0xA5], decode [0b10110, 0xA5], decode [0b10111, 0xA5],
      decode [0b11000, 0xA5], decode [0b11001, 0xA5], decode [0b11010, 0xA5], decode [0b11011, 0xA5],
      decode [0b11100, 0xA5], decode [0b11101, 0xA5], decode [0b11110, 0xA5], decode [0b11111, 0xA5]].map
        (fun r => match r with | .ok i => some i | .error _ => none) =
    [some (.duartWMra 0xA5), some (.duartWCsra 0xA5), some (.duartWCra 0xA5), some (.duartWThra 0xA5),
      some (.duartWAcr 0xA5), some (.duartWImr 0xA5), some (.duartWCtu 0xA5), some (.duartWCtl 0xA5),
      some (.duartWMrb 0xA5), some (.duartWCsrb 0xA5), some (.duartWCrb 0xA5), some (.duartWThrb 0xA5),
      some (.duartWIvr 0xA5), some (.duartWOpcr 0xA5), some (.duartWSopr 0xA5), some (.duartWRopr 0xA5)] := by decide

/-- R127: the wake command is `code << 8 | data` with code 0x12 or 0x1A and data bits 7..4 = 0xD. -/
theorem test_decode_wake :
    decodeTableWord 16 0x12D0 = some (.duartWWake .a 0) ∧ decodeTableWord 16 0x1AD5 = some (.duartWWake .b 5) ∧
      decodeTableWord 16 0x13D0 = none := by decide

/-- The frames of the bus calls (notes/assumptions/1.md): address least significant byte first. -/
theorem test_decode_bus_calls :
    [decode [0x20, 0x05, 0x00, 0xF0, 0x00], decode [0x21, 0x00, 0x01, 0x00, 0x00, 0x5A],
      decode [0x22, 0x18, 0x00, 0xF0, 0x00], decode [0x23, 0x00, 0x02, 0x00, 0x00, 0xEF, 0xBE],
      decode [0x24, 0x04]].map (fun r => match r with | .ok i => some i | .error _ => none) =
    [some (.busRead8 0xF00005), some (.busWrite8 0x100 0x5A), some (.busRead16 0xF00018),
      some (.busWrite16 0x200 0xBEEF), some (.busIackVector 4)] := by decide

/-- The frames of the controller calls: a source's two bytes, a level's four in two's complement. -/
theorem test_decode_controller_calls :
    [decode [0x30, 0x01, 0x07, 0x06, 0, 0, 0], decode [0x31, 0xFF, 0xFF, 0xFF, 0xFF], decode [0x32, 0x00, 0x00],
      decode [0x33], decode [0x34, 0x04, 0, 0, 0], decode [0x35, 0x00, 0x00], decode [0x36, 0x07, 0, 0, 0],
      decode [0x37, 0x01, 0x02], decode [0x38, 0x09, 0, 0, 0], decode [0x39]].map
        (fun r => match r with | .ok i => some i | .error _ => none) =
    [some (.icSourceAdd (.extra 7) 6), some (.icSourceRemoveLevel (-1)), some (.icSourceRemoveSrc .duart),
      some .icPoll, some (.icSourceEnableLevel 4), some (.icSourceEnableSrc .duart), some (.icSourceDisableLevel 7),
      some (.icSourceDisableSrc (.extra 2)), some (.icReadVector 9), some .icReset] := by decide

/-- The frames of the host steps. -/
theorem test_decode_host_steps :
    [decode [0x40, 0x00, 0x58], decode [0x40, 0x01, 0x22], decode [0x41, 0x3F], decode [0x42]].map
        (fun r => match r with | .ok i => some i | .error _ => none) =
    [some (.hostReceive .a 0x58), some (.hostReceive .b 0x22), some (.hostSetInputPort 0x3F), some .boardReset] := by
  decide

/-- What is no frame is refused by name. -/
theorem test_decode_refusals :
    [decode [], decode [0x10], decode [0x25], decode [0xD0, 0x13], decode [0x32, 2, 0], decode [0x40, 2, 0],
      decode [0x24, 8], decode [0x33, 1]].map (fun r => match r with | .ok _ => none | .error e => some e) =
    [some .empty, some .truncated, some (.unknownCall 0x25), some .badWakeCode, some .badSource, some .badChannel,
      some .badLevel, some .trailingData] := by decide

/-! ## Reset and construction -/

/-- R385: power-on with the default parameters and all-zero contents leaves State.reset. -/
theorem test_power_on : powerOn {} (some []) (some []) = .next State.reset := by rfl

/-- R381, V10: the reset values of the chip. -/
theorem test_reset_values :
    State.reset.duart.ivr = 0x0F ∧ State.reset.duart.imr = 0 ∧ State.reset.duart.ctr = 0 ∧
      outputPins State.reset.duart = 0xFF := by decide

/-- R8: the variant at 0xFC0000 with 1 MiB overlaps the I/O window (90_conflicts.md C7). -/
theorem test_bad_parameters :
    refusal (construct { romBase := 0xFC0000 } (some []) (some [])) = some .badParameters ∧
      refusal (construct { duartLevel := 8 } (some []) (some [])) = some .badParameters ∧
      refusal (construct { extraSources := [(1, 4)] } (some []) (some [])) = some .badParameters := by decide

/-- R386: no board without backing storage. -/
theorem test_missing_rom : refusal (construct {} (some []) none) = some .noBackingStore := by decide

/-- A presented word is the transaction that the next step runs. -/
theorem test_fetch_runs_the_word :
    look (fun t => t.reply) (step (State.reset.withFetchWord 8 0x0C)) = some (.byte 0x0F) := by decide

/-! ## DUART reads: the spec's table V3 -/

theorem test_read_mra :
    look (fun t => (t.reply, t.duart.chanA.mrPtr)) (exec .duartRMra v3) = some (.byte 0x13, 1) := by decide
theorem test_read_sra : look (fun t => t.reply) (exec .duartRSra v3) = some (.byte 0x0F) := by decide
theorem test_read_misr : look (fun t => t.reply) (exec .duartRMisr v3) = some (.byte 0x02) := by decide
theorem test_read_rhra :
    look (fun t => (t.reply, t.duart.chanA.fifo)) (exec .duartRRhra v3) = some (.byte 0x41, [0x42, 0x43]) := by decide
theorem test_read_ipcr :
    look (fun t => (t.reply, t.duart.ipChanges)) (exec .duartRIpcr v3) = some (.byte 0x15, 0) := by decide
theorem test_read_isr : look (fun t => t.reply) (exec .duartRIsr v3) = some (.byte 0x83) := by decide
theorem test_read_ctu : look (fun t => t.reply) (exec .duartRCtu v3) = some (.byte 0x07) := by decide
theorem test_read_ctl : look (fun t => t.reply) (exec .duartRCtl v3) = some (.byte 0x08) := by decide
theorem test_read_mrb :
    look (fun t => (t.reply, t.duart.chanB.mrPtr)) (exec .duartRMrb v3) = some (.byte 0x00, 1) := by decide
theorem test_read_srb : look (fun t => t.reply) (exec .duartRSrb v3) = some (.byte 0x00) := by decide
theorem test_read_none_a : look (fun t => t.reply) (exec .duartRNoneA v3) = some (.byte 0x00) := by decide
theorem test_read_rhrb_empty : look (fun t => t.reply) (exec .duartRRhrb v3) = some (.byte 0x00) := by decide
theorem test_read_ivr : look (fun t => t.reply) (exec .duartRIvr v3) = some (.byte 0x40) := by decide
theorem test_read_ip :
    look (fun t => (t.reply, t.duart.ipChanges)) (exec .duartRIp v3) = some (.byte 0x05, 1) := by decide
theorem test_read_start_without_mode :
    look (fun t => (t.reply, t.duart.timer.started)) (exec .duartRStart v3) = some (.byte 0x00, false) := by decide
theorem test_read_stop :
    look (fun t => (t.reply, t.duart.timer.ack)) (exec .duartRStop v3) = some (.byte 0x00, true) := by decide

/-- V6 row 4: the status at the FIFO lengths 0, 1, 2, 3. -/
theorem test_status_lengths :
    [[], [1], [1, 2], [1, 2, 3]].map (fun f => statusByte (channel false false f)) = [0x00, 0x01, 0x01, 0x03] := by
  decide

/-- R300's example: channel A transmitter enabled, channel B FIFO non-empty. -/
theorem test_isr_composition :
    isrOf { State.reset.duart with chanA := channel false true [], chanB := channel false false [7] } false = 0x21 := by
  decide

/-! ## The counter/timer: the spec's table V7 -/

/-- V7 row 2, R214. -/
theorem test_timer_start :
    look (fun t => t.duart.timer) (exec .duartRStart (v7 0)) =
      some { started := true, interval := 125 / 128, cur := 125 / 128, next := 125 / 64, ack := false } := by
  decide +kernel

/-- R313's example: `acr = 0x70`, `ctr = 1`, `now = 10`. -/
theorem test_timer_start_slow :
    timerStart {} 0x70 1 10 Timer.initial =
      { started := true, interval := 5 / 576, cur := 10 + 5 / 576, next := 10 + 10 / 576, ack := false } := by
  decide +kernel

/-- R315's example: started at 0 with interval 1. -/
theorem test_timer_check :
    timerCheck true (1 / 2) unitTimer = (false, unitTimer) ∧ timerCheck true (6 / 5) unitTimer = (true, unitTimer) ∧
      timerCheck true (5 / 2) unitTimer = (true, { unitTimer with cur := 2, next := 7 / 2 }) := by decide +kernel

/-- V7 row 9: without the parameter an acknowledged period stays acknowledged after an advance. -/
theorem test_timer_edge_like :
    (timerCheck false (9 / 4) (timerCheck false 2 (timerStop unitTimer)).2).1 = false ∧
      (timerCheck true (9 / 4) (timerCheck true 2 (timerStop unitTimer)).2).1 = true := by decide +kernel

/-- V7 row 15: the three interval bounds. -/
theorem test_intervals :
    timerInterval .exact 16 1 = 5 / 576 ∧ timerInterval .exact 16 0xFFFF = 109225 / 192 ∧
      timerInterval .exact 1 0xFFFF = 109225 / 3072 := by decide +kernel

/-- V7 row 17: the unsupported modes. -/
theorem test_unsupported_modes :
    [0x50, 0x40, 0x00, 0x10, 0x20, 0x30].map divisor = [none, none, none, none, none, none] := by decide

/-! ## DUART writes: the spec's table V4 -/

theorem test_write_mra :
    look (fun t => (t.duart.chanA.mr0, t.duart.chanA.mrPtr)) (exec (.duartWMra 0xAA) State.reset) = some (0xAA, 1) := by
  decide
theorem test_write_csra : look (fun t => t.duart.chanA.csr) (exec (.duartWCsra 0xBB) v3) = some 0xBB := by decide
theorem test_write_cra :
    look (fun t => t.duart.chanA) (exec (.duartWCra 0x15) v5) =
      some { channel true true [0x31, 0x32] with mrPtr := 0 } := by decide
theorem test_write_cra_enable_then_reset :
    look (fun t => t.duart.chanA) (exec (.duartWCra 0x21) v5) = some { channel false false [] with mrPtr := 1 } := by
  decide
theorem test_write_thra : look (fun t => t.txTrace) (exec (.duartWThra 0x58) v3) = some [⟨0, 0x58⟩] := by decide
theorem test_write_acr :
    look (fun t => (t.duart.acr, t.duart.timer)) (exec (.duartWAcr 0x70) v3) = some (0x70, Timer.initial) := by
  decide +kernel
theorem test_write_imr : look (fun t => t.duart.imr) (exec (.duartWImr 0x11) v3) = some 0x11 := by decide
theorem test_write_ctu : look (fun t => t.duart.ctr) (exec (.duartWCtu 0xAB) v3) = some 0xAB08 := by decide
theorem test_write_ctl : look (fun t => t.duart.ctr) (exec (.duartWCtl 0xCD) v3) = some 0x07CD := by decide
theorem test_write_mrb : look (fun t => t.duart.chanB.mr0) (exec (.duartWMrb 0x01) v3) = some 0x01 := by decide
theorem test_write_csrb : look (fun t => t.duart.chanB.csr) (exec (.duartWCsrb 0xCC) v3) = some 0xCC := by decide
theorem test_write_crb :
    look (fun t => t.duart.chanB) (exec (.duartWCrb 0x04) v3) = some (channel true true []) := by decide
theorem test_write_thrb_disabled : look (fun t => t.txTrace) (exec (.duartWThrb 0x41) v3) = some [] := by decide
theorem test_write_ivr : look (fun t => t.duart.ivr) (exec (.duartWIvr 0x50) v3) = some 0x50 := by decide
theorem test_write_opcr : look (fun t => t.duart) (exec (.duartWOpcr 0xFF) v3) = some v3.duart := by decide +kernel
/-- R244's example: `opr = 0x00`, `DW 0xE, 0x05` drives pins 0 and 2 low. -/
theorem test_write_sopr :
    look (fun t => (t.duart.opr, outputPins t.duart)) (exec (.duartWSopr 0x05) v3) = some (0x05, 0xFA) := by decide
/-- R245's example: `opr = 0x05`, `DW 0xF, 0x01`. -/
theorem test_write_ropr :
    look (fun t => (t.duart.opr, outputPins t.duart))
      (exec (.duartWRopr 0x01) (withChip { v3.duart with opr := 0x05 })) = some (0x04, 0xFB) := by decide

/-- V5 rows 8 and 9: both bits of a pair leave the flag to the environment. -/
theorem test_undefined_pair_is_a_draw :
    look (fun t => t.duart.chanA.rxEn) (exec (.duartWCra 0x03) (supply [.bool true] v5)) = some true ∧
      look (fun t => t.duart.chanA.rxEn) (exec (.duartWCra 0x03) (supply [.bool false] v5)) = some false ∧
      look (fun t => t.duart.chanA.txEn) (exec (.duartWCra 0x0C) (supply [.bool true] v5)) = some true := by decide

/-- V5 row 17: command 0xC enters standby under its parameter alone. -/
theorem test_command_c :
    look (fun t => t.duart.standby) (exec (.duartWCra 0xC0) v5) = some false ∧
      look (fun t => t.duart.standby)
        (exec (.duartWCra 0xC0) { v5 with params := { cmdCEntersStandby := true } }) = some true := by decide

/-! ## Standby: the spec's table V9 -/

theorem test_standby_read_pops_nothing :
    look (fun t => (t.reply, t.duart.chanA.fifo)) (exec .duartRRhra asleep) = some (.byte 0, [0x41]) := by decide
theorem test_standby_write_discarded :
    look (fun t => t.duart) (exec (.duartWImr 0xFF) asleep) = some asleep.duart := by decide +kernel
theorem test_wake_row :
    look (fun t => (t.duart.standby, t.duart.chanB)) (exec (.duartWWake .b 5) asleep) =
      some (false, Channel.initial) := by decide
theorem test_wake_by_command_write :
    look (fun t => t.duart.standby) (exec (.duartWCra 0xD0) asleep) = some false := by decide
theorem test_standby_poll : look (fun t => t.ipl) (exec .icPoll asleep) = some 0 := by decide

/-! ## The bus: the spec's table V2 -/

theorem test_read8_masks_the_address :
    look (fun t => t.reply) (exec (.busRead8 0x1000010) (board [(0x10, 0x22)] [])) = some (.byte 0x22) := by decide
theorem test_read8_io_alias : look (fun t => t.reply) (exec (.busRead8 0xF00219) State.reset) = some (.byte 0x0F) := by
  decide
theorem test_write8_rom_dropped :
    look (fun t => t.rom) (exec (.busWrite8 0xE00010 0x55) (board [] [(0x10, 0x77)])) = some [(0x10, 0x77)] := by decide
theorem test_write8_zero_keeps_the_form :
    look (fun t => t.ram) (exec (.busWrite8 0x10 0) (board [(0x10, 0x22), (0x11, 1)] [])) = some [(0x11, 1)] := by
  decide
theorem test_read16_unaligned :
    look (fun t => t.reply) (exec (.busRead16 0x101) (board [(0x101, 0x34), (0x102, 0x56)] [])) =
      some (.word 0x3456) := by decide
theorem test_read16_wraps :
    look (fun t => t.reply) (exec (.busRead16 0xFFFFFF) (board [(0, 0xAB)] [])) = some (.word 0x00AB) := by decide
theorem test_read16_io_lanes :
    look (fun t => t.reply) (exec (.busRead16 0xF00018) v3) = some (.word 0x0040) ∧
      look (fun t => t.reply) (exec (.busRead16 0xF00019) v3) = some (.word 0x4000) := by decide
theorem test_write16_io_lanes :
    look (fun t => t.duart.imr) (exec (.busWrite16 0xF0000A 0x1234) State.reset) = some 0x34 ∧
      look (fun t => t.duart.imr) (exec (.busWrite16 0xF0000B 0x1234) State.reset) = some 0x12 := by decide
theorem test_write16_big_endian :
    look (fun t => t.ram) (exec (.busWrite16 0x200 0xBEEF) State.reset) = some [(0x200, 0xBE), (0x201, 0xEF)] := by
  decide
theorem test_iack_vector : look (fun t => t.reply) (exec (.busIackVector 4) v3) = some (.word 0x0040) := by decide
theorem test_iack_unbound : look (fun t => t.reply) (exec (.busIackVector 2) v3) = some (.word 0x000F) := by decide

/-- V2 rows 20 to 22: under the boot overlay. -/
theorem test_overlay :
    look (fun t => t.reply) (exec (.busRead8 4) (overlaid [(4, 0x99)] [])) = some (.byte 0x00) ∧
      look (fun t => t.reply) (exec (.busRead8 0xE00004) (overlaid [(4, 0x99)] [])) = some (.byte 0x99) ∧
      refusal (exec (.busWrite8 0 1) (overlaid [] [])) = some .writeDuringOverlay ∧
      look (fun t => t.reply) (exec (.busRead8 0xF00019) (overlaid [] [])) = some (.byte 0x0F) := by decide

/-- R171: a LOW address beyond a short ROM. -/
theorem test_overlay_beyond_rom :
    refusal (exec (.busRead8 0x100) { overlaid [] [] with params := { romSize := 0x100 } }) =
      some .overlayBeyondBuffer := by decide

/-! ## The controller: the spec's table V1 -/

theorem test_add_level_zero :
    look (fun t => (t.reply, t.slots)) (exec (.icSourceAdd (.extra 1) 0) State.reset) =
      some (.bool false, State.reset.slots) := by decide
theorem test_add_level_seven :
    look (fun t => (t.reply, t.slots.get 6)) (exec (.icSourceAdd (.extra 1) 7) State.reset) =
      some (.bool true, some ⟨.extra 1, true⟩) := by decide
theorem test_remove_by_source :
    look (fun t => (t.reply, t.slots.get 3)) (exec (.icSourceRemoveSrc .duart) State.reset) =
      some (.bool true, none) := by decide
theorem test_remove_empty_level :
    look (fun t => t.reply) (exec (.icSourceRemoveLevel 5) State.reset) = some (.bool false) := by decide
theorem test_enable_by_level :
    look (fun t => t.slots.get 3) (exec (.icSourceEnableLevel 4) (oneSlot 3 ⟨.duart, false⟩)) =
      some (some ⟨.duart, true⟩) := by decide
theorem test_enable_by_source :
    look (fun t => t.reply) (exec (.icSourceEnableSrc .duart) State.reset) = some (.bool true) := by decide
theorem test_disable_level_seven :
    look (fun t => t.slots.get 6) (exec (.icSourceDisableLevel 7) (oneSlot 6 ⟨.extra 1, true⟩)) =
      some (some ⟨.extra 1, false⟩) := by decide
theorem test_disable_by_source :
    look (fun t => (t.reply, t.slots.get 3)) (exec (.icSourceDisableSrc .duart) State.reset) =
      some (.bool true, some ⟨.duart, false⟩) := by decide
/-- E2: sources asserting at levels 3 and 6 give 6, both polled. -/
theorem test_poll_highest_wins :
    look (fun t => (t.ipl, t.env.script)) (exec .icPoll (supply [.bool true, .bool true]
      (State.reset.withSlots #v[none, none, some ⟨.extra 1, true⟩, none, none, some ⟨.extra 2, true⟩, none]))) =
      some (6, []) := by decide
/-- E10 step 5: a received byte with `imr = 0x02` gives level 4. -/
theorem test_poll_duart :
    look (fun t => t.reply) (exec .icPoll
      (withChip { State.reset.duart with imr := 0x02, chanA := channel true false [0x58] })) = some (.level 4) := by
  decide
theorem test_vector_bound : look (fun t => t.reply) (exec (.icReadVector 4) v3) = some (.byte 0x40) := by decide
theorem test_vector_out_of_range :
    look (fun t => t.reply) (exec (.icReadVector 9) v3) = some (.byte 0x0F) ∧
      look (fun t => t.reply) (exec (.icReadVector (-1)) v3) = some (.byte 0x0F) := by decide
/-- R147: a disabled source is reset, its slot stands; `ip_value` stands (R381). -/
theorem test_controller_reset :
    look (fun t => (t.duart.ivr, t.duart.ipValue, t.duart.chanA.fifo))
      (exec .icReset (v3.withSlots (oneSlot 3 ⟨.duart, false⟩).slots)) = some (0x0F, 0x05, []) := by decide

/-! ## The host's steps -/

/-- V6 row 6: a receive is not gated by standby. -/
theorem test_receive_in_standby :
    look (fun t => t.duart.chanA.fifo) (exec (.hostReceive .a 0x42) asleep) = some [0x41, 0x42] := by decide
/-- V6 row 1: a disabled receiver drops the byte. -/
theorem test_receive_disabled :
    look (fun t => t.duart.chanA.fifo) (exec (.hostReceive .a 0x11) State.reset) = some [] := by decide
/-- V8 row 6: `IP 0x30` after `ip_value = 0x01`. -/
theorem test_set_input_port :
    look (fun t => (t.duart.ipValue, t.duart.ipChanges))
      (exec (.hostSetInputPort 0x30) (withChip { State.reset.duart with ipValue := 0x01, ipChanges := 0x00 })) =
      some (0x30, 0x31) := by decide
/-- R384: under the overlay the reset sequence reads ROM[0..7]. -/
theorem test_board_reset_reads_rom :
    look (fun t => (t.resetReads, t.overlay)) (exec .boardReset (board [(0, 9)] [(1, 0x12), (6, 0x34)])) =
      some ([.word 0x0012, .word 0, .word 0, .word 0x3400], false) := by decide
/-- V9 row 9: a board reset leaves standby as it is. -/
theorem test_board_reset_keeps_standby :
    look (fun t => (t.duart.standby, t.duart.ivr)) (exec .boardReset asleep) = some (true, 0x0F) := by decide

/-! ## Witnesses: for each statement with hypotheses, concrete values that meet them -/

/-- The state after reset with these frames presented. -/
def presented (fs : List Frame) : State := State.reset.withPending fs

/-- Three clauses: nothing presented, a frame that decodes, a frame that does not. -/
theorem witness_StepRunsTheOldestPresentedTransaction :
    State.reset.pending = [] ∧
      ((presented [[0x05], [0x42]]).pending = [0x05] :: [[0x42]] ∧ decode [0x05] = .ok .duartRIsr) ∧
      ((presented [[0x25]]).pending = [0x25] :: [] ∧ decode [0x25] = .error (.unknownCall 0x25)) :=
  ⟨rfl, ⟨rfl, rfl⟩, ⟨rfl, rfl⟩⟩

theorem witness_DecodeOfEncodeIsTheTransaction :
    (Instr.icSourceAdd (.extra 255) 2147483647).wf = true ∧ (Instr.icReadVector (-2147483648)).wf = true ∧
      (Instr.duartWWake .b 15).wf = true := by decide

theorem witness_DecodedFrameIsItsEncodingAndZeros :
    decode [0xDF, 0x1A, 0, 0, 0, 0, 0] = .ok (.duartWWake .b 15) ∧ decode [0x33] = .ok .icPoll := ⟨rfl, rfl⟩

theorem witness_EveryStepKeepsTheInvariant :
    (presented [[0x40, 0x00, 0x58]]).Inv ∧
      ∃ t, step (presented [[0x40, 0x00, 0x58]]) = .next t :=
  ⟨by decide +kernel, _, rfl⟩

/-- A board at the far ends of the parameters: levels 1 and 7, RAM and ROM cells at their last index. -/
theorem witness_ConstructionGivesAGoodBoardOrIsRefused :
    (∃ s, construct { duartLevel := 1, extraSources := [(9, 7)] } (some [(0xFFFFF, 1)]) (some [(0xFFFFF, 2)]) =
      .next s) ∧
      (({ romBase := 0x100000, romSize := 0xEFFFFF, ioBase := 0xFFFFFF, duartLevel := 7 } : Params).valid = true ∧
        Memory.wf [(0, 1), (0xFFFFF, 1)] = true ∧ Memory.below [(0, 1), (0xFFFFF, 1)] 0x100000 = true ∧
        Memory.wf [(0xEFFFFE, 2)] = true ∧ Memory.below [(0xEFFFFE, 2)] 0xEFFFFF = true) ∧
      ({ duartLevel := 0 } : Params).valid = false ∧ ({ romBase := 0xFFFFF } : Params).valid = false ∧
      ({ romBase := 0xE00001 } : Params).valid = false ∧ ({ ioBase := 0x1000000 } : Params).valid = false ∧
      ({ extraSources := [(9, 4)] } : Params).valid = false ∧ ({ extraSources := [(9, 8)] } : Params).valid = false ∧
      ({ extraSources := [(9, 1), (9, 2)] } : Params).valid = false :=
  ⟨⟨_, rfl⟩, by decide, by decide, by decide, by decide, by decide, by decide, by decide, by decide⟩

theorem witness_PowerOnConstructsThenResetsTheBoard :
    (construct { duartLevel := 8 } (some []) (some []) = .refused .badParameters ∧
      construct {} none (some []) = .refused .noBackingStore) ∧
      (∃ s, construct { romSize := 8 } (some [(0xFFFFF, 1)]) (some [(7, 2)]) = .next s) ∧
      ({ romSize := 8 } : Params).cpuResetSeq = [.read16 0, .read16 2, .read16 4, .read16 6] ∧
      ({ romSize := 8 } : Params).extraSources = [] ∧ 8 ≤ ({ romSize := 8 } : Params).romSize :=
  ⟨⟨rfl, rfl⟩, ⟨_, rfl⟩, rfl, rfl, by decide⟩

theorem witness_PlainReadsAnswerTheRegister : v3.duart.standby = false := rfl
theorem witness_StatusReadComposesTheFlags : v3.duart.standby = false := rfl
theorem witness_ModeReadAdvancesThePointer : v3.duart.standby = false := rfl
theorem witness_HoldingReadPopsTheOldestByte :
    v3.duart.standby = false ∧ (v3.chan .b).fifo = [] ∧ (v3.chan .a).fifo = 0x41 :: [0x42, 0x43] := ⟨rfl, rfl, rfl⟩
theorem witness_IpcrReadAnswersAndClearsTheChanges : v3.duart.standby = false := rfl
theorem witness_IsrReadsComposeTheConditions : v3.duart.standby = false := rfl

/-- Each mode with the least and the greatest reload value; each neighbour of the modes; the reload value 0. -/
theorem witness_StartReadStartsOrStopsTheTimer :
    ∀ x ∈ [((0x60 : Byte), (1 : Half), 1, true), (0x60, 0xFFFF, 1, true), (0x70, 1, 16, true), (0xF0, 0xFFFF, 16, true),
        (0x50, 1, 1, false), (0x00, 1, 1, false), (0x60, 0, 1, false), (0x70, 0, 1, false)],
      let d := { State.reset.duart with acr := x.1, ctr := x.2.1 }
      (withChip d).duart.standby = false ∧
        (x.2.2.2 = true →
          (d.acr.extractLsb' 4 3 = 0b110#3 ∧ x.2.2.1 = 1 ∨ d.acr.extractLsb' 4 3 = 0b111#3 ∧ x.2.2.1 = 16) ∧
          d.ctr ≠ 0) ∧
        (x.2.2.2 = false →
          (d.acr.extractLsb' 4 3 ≠ 0b110#3 ∧ d.acr.extractLsb' 4 3 ≠ 0b111#3 ∨ d.ctr = 0)) := by decide

theorem witness_StopReadAcknowledgesThePeriod : v3.duart.standby = false := rfl
theorem witness_PlainWritesStoreTheRegister : v3.duart.standby = false := rfl
theorem witness_OutputWritesDriveTheSelectedPins : v3.duart.standby = false := rfl
theorem witness_ModeAndClockSelectWritesStoreTheirByte :
    v3.duart.standby = false ∧ (v3.chan .a).mrPtr = 0 ∧ v5.duart.standby = false ∧ (v5.chan .a).mrPtr = 1 :=
  ⟨rfl, rfl, rfl, rfl⟩

/-- One byte for each command clause: 0x1, 0x2, 0xC with and without its parameter, and another command. -/
theorem witness_CommandWriteAppliesEnablesThenCommand :
    (∀ v ∈ [(0x15 : Byte), 0x2A, 0xC1, 0xF8],
      v5.duart.standby = false ∧ (v.getLsbD 0 && v.getLsbD 1) = false ∧ (v.getLsbD 2 && v.getLsbD 3) = false) ∧
      (∃ ch : Channel, ch = { v5.chan .a with
        rxEn := if (0x15#8).getLsbD 0 then true else if (0x15#8).getLsbD 1 then false else (v5.chan .a).rxEn,
        txEn := if (0x15#8).getLsbD 2 then true else if (0x15#8).getLsbD 3 then false else (v5.chan .a).txEn }) ∧
      (0x15#8).extractLsb' 4 4 = 0x1#4 ∧ (0x2A#8).extractLsb' 4 4 = 0x2#4 ∧ (0xC1#8).extractLsb' 4 4 = 0xC#4 ∧
      ({ v5 with params := { cmdCEntersStandby := true } } : State).params.cmdCEntersStandby = true ∧
      v5.params.cmdCEntersStandby = false ∧ (0xF8#8).extractLsb' 4 4 ≠ 0x1#4 ∧ (0xF8#8).extractLsb' 4 4 ≠ 0x2#4 :=
  ⟨by decide, ⟨_, rfl⟩, by decide, by decide, by decide, rfl, rfl, by decide, by decide⟩

/-- Each pair alone, each beside each bit of the other pair, both, and both with each command of R116; and a byte
with no contradictory pair. -/
theorem witness_BothEnableBitsLeaveTheFlagToADraw :
    v5.duart.standby = false ∧
      [(0x03 : Byte), 0x07, 0x0B, 0x0C, 0x0D, 0x0E, 0x0F, 0x13, 0x23, 0xC3, 0xDC, 0xFF].all
        (fun v => v.getLsbD 0 && v.getLsbD 1 || v.getLsbD 2 && v.getLsbD 3) = true ∧
      ((0x0A : Byte).getLsbD 0 && (0x0A : Byte).getLsbD 1 || (0x0A : Byte).getLsbD 2 && (0x0A : Byte).getLsbD 3) =
        false ∧
      (0x13 : Byte).extractLsb' 4 4 = 0x1#4 ∧ (0x23 : Byte).extractLsb' 4 4 = 0x2#4 ∧
      (0xC3 : Byte).extractLsb' 4 4 = 0xC#4 ∧ ({ cmdCEntersStandby := true } : Params).cmdCEntersStandby = true ∧
      v5.params.cmdCEntersStandby = false ∧
      (supply [.bool true, .bool false] v5).env.script = .bool true :: [.bool false] :=
  ⟨rfl, by decide, by decide, by decide, by decide, by decide, rfl, rfl, rfl⟩
theorem witness_HoldingWriteTransmitsWhenEnabled :
    v3.duart.standby = false ∧ (v3.chan .a).txEn = true ∧ (v3.chan .b).txEn = false := ⟨rfl, rfl, rfl⟩
theorem witness_StandbyReadsAnswerZero : asleep.duart.standby = true := rfl

/-- The least and the greatest wake byte on both command registers, and their neighbours. -/
theorem witness_StandbyWritesAreDiscardedButTheWake :
    asleep.duart.standby = true ∧
      [((0x2 : BitVec 4), (0xD0 : Byte)), (0x2, 0xDF), (0xA, 0xD0), (0xA, 0xDF)].all
        (fun x => decide ((x.1 = 0x2 ∨ x.1 = 0xA) ∧ x.2.extractLsb' 4 4 = 0xD#4)) = true ∧
      [((0x2 : BitVec 4), (0xCF : Byte)), (0xA, 0xE0), (0x1, 0xD0), (0xB, 0xDF)].all
        (fun x => decide (¬((x.1 = 0x2 ∨ x.1 = 0xA) ∧ x.2.extractLsb' 4 4 = 0xD#4))) = true :=
  ⟨rfl, by decide, by decide⟩

theorem witness_NoTransactionEntersStandbyUnlessConfigured :
    (∃ t, exec (.duartWCra 0xC0) v5 = .next t) ∧ v5.params.cmdCEntersStandby = false ∧ v5.duart.standby = false :=
  ⟨⟨_, rfl⟩, rfl, rfl⟩

theorem witness_RegionsPartitionTheBusSpace : ({} : Params).valid = true := by decide

/-- The first and the last register, in the first and the last of the 512-byte patterns. -/
theorem witness_RegistersRepeatThroughTheIoWindow :
    ({} : Params).valid = true ∧ ({} : Params).ioBase % 2 = 0 ∧
      ({} : Params).ioBase + 0x200 * 0 + 2 * (0#4).toNat + 1 ≤ 0xFFFFFF ∧
      ({} : Params).ioBase + 0x200 * 2047 + 2 * (15#4).toNat + 1 ≤ 0xFFFFFF := by decide

/-- The first and the last address of each region. -/
theorem witness_ByteReadsOfRamRomAndVoid :
    State.reset.overlay = false ∧
      [(0x000000 : CpuAddr), 0x0FFFFF].all (fun addr => decide (regionOf {} (addr.setWidth 24) = .low)) = true ∧
      [(0xE00000 : CpuAddr), 0xEFFFFF].all (fun addr => decide (regionOf {} (addr.setWidth 24) = .romWin)) = true ∧
      [(0x100000 : CpuAddr), 0xDFFFFF].all (fun addr => decide (regionOf {} (addr.setWidth 24) = .void)) = true :=
  ⟨rfl, by decide, by decide, by decide⟩

theorem witness_ByteWritesOfRamRomAndVoid :
    State.reset.overlay = false ∧ State.reset.ram.wf = true ∧
      [(0x000000 : CpuAddr), 0x0FFFFF].all (fun addr => decide (regionOf {} (addr.setWidth 24) = .low)) = true ∧
      regionOf {} ((0xE00000 : CpuAddr).setWidth 24) = .romWin ∧
      regionOf {} ((0xDFFFFF : CpuAddr).setWidth 24) = .void :=
  ⟨rfl, rfl, by decide, by decide, by decide⟩

/-- An even address, the registers 0x0 and 0xF, and a register beyond 0xF with each choice of the alias. -/
theorem witness_IoBytesReachTheirRegister :
    [(0xF00000 : BusAddr), 0xF00001, 0xF0001F, 0xF00021, 0xFFFFFF].all (fun a => decide (regionOf {} a = .io)) = true ∧
      (0xF00000 : BusAddr).toNat % 2 = 0 ∧
      [(0xF00001 : BusAddr), 0xF0001F].all
        (fun a => decide (a.toNat % 2 = 1 ∧ (a.toNat - 0xF00000) / 2 % 256 ≤ 15)) = true ∧
      [(0xF00021 : BusAddr), 0xFFFFFF].all
        (fun a => decide (a.toNat % 2 = 1 ∧ 15 < (a.toNat - 0xF00000) / 2 % 256)) = true ∧
      ({ ioRegAlias := .mask4 } : Params).ioRegAlias = .mask4 ∧ ({} : Params).ioRegAlias = .inert := by decide

theorem witness_BusAddressesAreMaskedTo24Bits :
    (0x01000010 : CpuAddr) &&& 0xFFFFFF = (0xFF000010 : CpuAddr) &&& 0xFFFFFF := by decide

/-- Words at an even and an odd address, and across the top of the space. -/
theorem witness_WordAccessIsTwoByteAccesses :
    (0 : CpuAddr).toNat = ((0xFFFFFF : CpuAddr).toNat + 1) % 0x1000000 ∧
      (∃ s1 s2, exec (.busRead8 0xFFFFFF) State.reset = .next s1 ∧ s1.reply = .byte 0 ∧
        exec (.busRead8 0) s1 = .next s2 ∧ s2.reply = .byte 0) ∧
      ∃ s1 s2, exec (.busWrite8 0xFFFFFF 0x12) State.reset = .next s1 ∧ exec (.busWrite8 0 0x34) s1 = .next s2 :=
  ⟨by decide, ⟨_, _, rfl, rfl, rfl, rfl⟩, ⟨_, _, rfl, rfl⟩⟩

theorem witness_RamWordsAreBigEndian :
    State.reset.overlay = false ∧ State.reset.ram.wf = true ∧
      [(0 : CpuAddr), 0x101, 0x0FFFFE].all (fun addr => decide ((addr.setWidth 24).toNat + 1 ≤ 0x0FFFFF)) = true :=
  ⟨rfl, rfl, by decide⟩

/-- Both lanes, of the first register in the first pattern and of the last in the last pattern whose word fits. -/
theorem witness_IoWordsReachOneRegisterInOneLane :
    State.reset.params.valid = true ∧ State.reset.params.ioBase % 2 = 0 ∧
      State.reset.params.ioBase + 0x200 * 2047 + 2 * (15#4).toNat + 2 ≤ 0xFFFFFF ∧
      (∃ t, exec (readInstr 15) State.reset = .next t ∧ t.reply = .byte 0) ∧
      (0xFFFE1E : CpuAddr).toNat = State.reset.params.ioBase + 0x200 * 2047 + 2 * (15#4).toNat ∧
      (0xFFFE1F : CpuAddr).toNat = State.reset.params.ioBase + 0x200 * 2047 + 2 * (15#4).toNat + 1 ∧
      (0xF00000 : CpuAddr).toNat = State.reset.params.ioBase + 0x200 * 0 + 2 * (0#4).toNat ∧
      (∃ u, exec (writeInstr 15 ((0x1234#16).extractLsb' 0 8)) State.reset = .next u) ∧
      ∃ u, exec (writeInstr 15 ((0x1234#16).extractLsb' 8 8)) State.reset = .next u :=
  ⟨by decide, by decide, by decide, ⟨_, rfl, rfl⟩, by decide, by decide, by decide, ⟨_, rfl⟩, ⟨_, rfl⟩⟩

theorem witness_RamReadsTheLatestWrite :
    State.reset.overlay = false ∧ State.reset.ram.wf = true ∧ ((0x0FFFFF : CpuAddr).setWidth 24).toNat ≤ 0x0FFFFF ∧
      ((0 : CpuAddr).setWidth 24).toNat ≤ 0x0FFFFF ∧ ∃ t, exec (.busWrite8 0x0FFFFF 0x5A) State.reset = .next t :=
  ⟨rfl, rfl, by decide, by decide, ⟨_, rfl⟩⟩

/-- Each region under the overlay; with a ROM of 0x100 bytes, the last address it has and the first it has not. -/
theorem witness_OverlayExchangesTheBuffers :
    (overlaid [] []).overlay = true ∧
      regionOf ({ romSize := 0x100 } : Params) ((0xFF : CpuAddr).setWidth 24) = .low ∧
      ((0xFF : CpuAddr).setWidth 24).toNat < ({ romSize := 0x100 } : Params).romSize ∧
      regionOf ({ romSize := 0x100 } : Params) ((0x100 : CpuAddr).setWidth 24) = .low ∧
      ({ romSize := 0x100 } : Params).romSize ≤ ((0x100 : CpuAddr).setWidth 24).toNat ∧
      regionOf ({} : Params) ((0xEFFFFF : CpuAddr).setWidth 24) = .romWin ∧
      ((0xEFFFFF : CpuAddr).setWidth 24).toNat - ({} : Params).romBase < 0x100000 ∧
      regionOf ({} : Params) ((0x100000 : CpuAddr).setWidth 24) = .void := by decide

/-- Levels 0, 8 and -1 are out of range; 1 and 7 are in it, free and occupied. -/
theorem witness_SourceAddBindsAFreeLevel :
    ((0 : Int) < 1 ∨ 7 < (0 : Int)) ∧ ((8 : Int) < 1 ∨ 7 < (8 : Int)) ∧
      (1 : Int) = ((0 : Fin 7).val : Int) + 1 ∧ State.reset.slots.get 0 = none ∧
      (7 : Int) = ((6 : Fin 7).val : Int) + 1 ∧ State.reset.slots.get 6 = none ∧
      (4 : Int) = ((3 : Fin 7).val : Int) + 1 ∧ State.reset.slots.get 3 ≠ none := by decide

theorem witness_LevelKeysActOnTheirOwnSlot :
    ((0 : Int) < 1 ∨ 7 < (0 : Int)) ∧ ((8 : Int) < 1 ∨ 7 < (8 : Int)) ∧
      (7 : Int) = ((6 : Fin 7).val : Int) + 1 ∧ State.reset.slots.get 6 = none ∧
      (oneSlot 6 ⟨.duart, true⟩).slots.get 6 = some ⟨.duart, true⟩ ∧
      (oneSlot 0 ⟨.duart, false⟩).slots.get 0 = some ⟨.duart, false⟩ := by decide

/-- A source bound nowhere, and one bound at two levels, the lower binding disabled. -/
theorem witness_SourceKeysActOnTheLowestBinding :
    (∀ (i : Fin 7) (sl : Slot), State.reset.slots.get i = some sl → sl.src ≠ .extra 1) ∧
      ∃ s : State, s.slots.get 2 = some ⟨.duart, false⟩ ∧ s.slots.get 3 = some ⟨.duart, true⟩ ∧
        ∀ (j : Fin 7) (sl : Slot), j < 2 → s.slots.get j = some sl → sl.src ≠ .duart := by
  refine ⟨?_, State.reset.withSlots (State.reset.slots.set 2 (some ⟨.duart, false⟩)), rfl, rfl, ?_⟩
  · intro i sl h
    revert sl
    revert i
    decide
  · intro j sl hj h
    revert sl
    revert j
    decide

/-- Extra sources at the levels 1 and 7, the first alone and both answering true, each in its turn. -/
theorem witness_PollReportsTheHighestAssertingLevel :
    (∃ s : State, s = supply [.bool true, .bool true] (State.reset.withSlots
        #v[some ⟨.extra 9, true⟩, none, none, some ⟨.duart, false⟩, none, none, some ⟨.extra 8, true⟩]) ∧
      enabledSlots s.slots slotOrder = [0, 6] ∧
      (([0, 6] : List (Fin 7)) = [] ++ 0 :: [6] ∧ (pollAt s.slots 0 (afterPolls s.slots [] s)).1 = true) ∧
      ([0, 6] : List (Fin 7)) = [0] ++ 6 :: [] ∧ (pollAt s.slots 6 (afterPolls s.slots [0] s)).1 = true) ∧
      asleep.duart.standby = true ∧
      ∃ m t, v3.duart.standby = false ∧ exec .duartRMisr v3 = .next t ∧ t.reply = .byte m :=
  ⟨⟨_, rfl, by decide, ⟨rfl, rfl⟩, rfl, rfl⟩, rfl, _, _, rfl, rfl, rfl⟩

theorem witness_PollOfTheDuartFollowsItsMaskedIsr :
    (∃ m t, State.reset.slots.get 3 = some ⟨.duart, true⟩ ∧
      (∀ (j : Fin 7) (sl : Slot), j ≠ 3 → State.reset.slots.get j = some sl → sl.enabled = false) ∧
      State.reset.duart.standby = false ∧ exec .duartRMisr State.reset = .next t ∧ t.reply = .byte m) ∧
      asleep.slots.get 3 = some ⟨.duart, true⟩ ∧ asleep.duart.standby = true := by
  refine ⟨⟨_, _, rfl, ?_, rfl, rfl, rfl⟩, rfl, rfl⟩
  intro j sl hj h
  revert sl
  revert j
  decide

/-- Out of range, empty, disabled, the DUART and an extra source, at the levels 1 and 7. -/
theorem witness_VectorReadRoutesToTheBoundSource :
    ((0 : Int) < 1 ∨ 7 < (0 : Int)) ∧ ((8 : Int) < 1 ∨ 7 < (8 : Int)) ∧
      (7 : Int) = ((6 : Fin 7).val : Int) + 1 ∧ (7#3).toNat = (6 : Fin 7).val + 1 ∧
      (1 : Int) = ((0 : Fin 7).val : Int) + 1 ∧ (1#3).toNat = (0 : Fin 7).val + 1 ∧
      State.reset.slots.get 6 = none ∧ (oneSlot 6 ⟨.duart, false⟩).slots.get 6 = some ⟨.duart, false⟩ ∧
      (oneSlot 0 ⟨.duart, true⟩).slots.get 0 = some ⟨.duart, true⟩ ∧
      (oneSlot 6 ⟨.extra 9, true⟩).slots.get 6 = some ⟨.extra 9, true⟩ := by decide

theorem witness_ControllerResetCascades :
    ¬ duartBound (oneSlot 6 ⟨.extra 9, true⟩).slots ∧ duartBound (oneSlot 0 ⟨.duart, false⟩).slots := by
  unfold duartBound
  decide

/-- A channel with `n` received bytes. -/
def filled (n : Nat) : State := withA (channel true false (List.replicate n 0x11))

/-- A disabled receiver, a full FIFO and one with 254 bytes. -/
theorem witness_ReceiveAppendsWhereEnabledAndNotFull :
    ((State.reset.chan .a).rxEn = false) ∧ ((filled 255).chan .a).fifo.length = 255 ∧
      ((filled 254).chan .a).rxEn = true ∧ ((filled 254).chan .a).fifo.length ≠ 255 :=
  ⟨rfl, List.length_replicate, rfl, fun h => absurd (List.length_replicate.symm.trans h) (by decide)⟩

theorem witness_ManyReceivesKeepTheFirst255InOrder :
    ((filled 255).chan .a).rxEn = true ∧ ((filled 255).chan .a).fifo.length ≤ 255 :=
  ⟨rfl, Nat.le_of_eq List.length_replicate⟩

theorem witness_HoldingReadsDrainTheFifoInOrder : (filled 255).duart.standby = false := rfl

/-- The default sequence with the shortest ROM it fits in; a sequence that starts with a write of each region. -/
theorem witness_BoardResetResetsAndReadsTheRomVectors :
    (∃ t, ({ State.reset with params := { romSize := 8 } } : State).params.cpuResetSeq =
        [.read16 0, .read16 2, .read16 4, .read16 6] ∧
      8 ≤ ({ State.reset with params := { romSize := 8 } } : State).params.romSize ∧
      exec .icReset { State.reset with params := { romSize := 8 } } = .next t) ∧
      ({ cpuResetSeq := [.write8 0x0FFFFF 1] } : Params).cpuResetSeq = .write8 0x0FFFFF 1 :: [] ∧
      regionOf { cpuResetSeq := [.write8 0x0FFFFF 1] } ((0x0FFFFF : CpuAddr).setWidth 24) = .low ∧
      regionOf { cpuResetSeq := [.write8 0xE00000 1] } ((0xE00000 : CpuAddr).setWidth 24) = .romWin :=
  ⟨⟨_, rfl, by decide, rfl⟩, rfl, by decide, by decide⟩

theorem witness_TimerIntervalFormula :
    ((1 : Nat) = 1 ∨ (1 : Nat) = 16) ∧ ((16 : Nat) = 1 ∨ (16 : Nat) = 16) ∧ (1 : Half) ≠ 0 ∧ (0xFFFF : Half) ≠ 0 := by
  decide

/-- Stopped; exactly at each deadline; just before each. -/
theorem witness_TimerCheckFollowsItsWindow :
    Timer.initial.started = false ∧ unitTimer.started = true ∧ unitTimer.next ≤ (2 : Time) ∧
      unitTimer.cur ≤ (1 : Time) ∧ (1 : Time) < unitTimer.next ∧ (1 / 2 : Time) < unitTimer.cur ∧
      (1 / 2 : Time) < unitTimer.next := by decide +kernel

/-- At the first deadline exactly, at the second exactly, and a check at the same time. -/
theorem witness_CounterReadyIsLevelLikeUntilAcknowledged :
    unitTimer.Inv ∧ (timerCheck true 1 unitTimer).1 = true ∧ (1 : Time) ≤ 1 ∧ (timerCheck true 2 unitTimer).1 = true ∧
      (2 : Time) ≤ 5 := by
  unfold Timer.Inv
  decide +kernel

theorem witness_AcknowledgeSilencesUntilTheNextBoundary :
    unitTimer.started = true ∧ (1 : Time) < unitTimer.next ∧ unitTimer.next ≤ (2 : Time) := by decide +kernel

theorem witness_OnlyItsOwnTransactionsMoveTheTimer :
    (∃ t, exec (.duartWAcr 0x60) v3 = .next t) ∧ mayMoveTimer (.duartWAcr 0x60) = false := ⟨⟨_, rfl⟩, rfl⟩

theorem witness_EveryTransactionCompletes :
    State.reset.overlay = false ∧
      ∀ c ∈ State.reset.params.cpuResetSeq, readsBelow (min State.reset.params.romSize 0x100000) c := by
  refine ⟨rfl, fun c hc => ?_⟩
  simp only [State.reset, List.mem_cons, List.not_mem_nil, or_false] at hc
  rcases hc with rfl | rfl | rfl | rfl <;> unfold readsBelow <;> decide

theorem witness_RomTraceAndClockNeverGoBack : ∃ t, step (presented [[0x13, 0x58]]) = .next t := ⟨_, rfl⟩

theorem witness_ChannelsShareNoState :
    ChanId.a ≠ .b ∧ actsOnChannel .a (.duartWCra 0x2F) ∧ ∃ t, exec (.duartWCra 0x2F) v3 = .next t :=
  ⟨by decide, Or.inr (Or.inr (Or.inr (Or.inl ⟨0x2F, Or.inr (Or.inr (Or.inl rfl))⟩))), ⟨_, rfl⟩⟩

theorem witness_BytesLeaveAFifoOnlyByItsOwnReads :
    (∃ t, exec (.duartWCrb 0x20) v3 = .next t) ∧ Instr.duartWCrb 0x20 ≠ holdingReadOf .a ∧
      (∀ v, Instr.duartWCrb 0x20 ≠ commandOf .a v) ∧ (∀ lo, Instr.duartWCrb 0x20 ≠ .duartWWake .a lo) ∧
      (∀ a, Instr.duartWCrb 0x20 ≠ .busRead8 a) ∧ (∀ a v, Instr.duartWCrb 0x20 ≠ .busWrite8 a v) ∧
      (∀ a, Instr.duartWCrb 0x20 ≠ .busRead16 a) ∧ (∀ a v, Instr.duartWCrb 0x20 ≠ .busWrite16 a v) ∧
      Instr.duartWCrb 0x20 ≠ .icReset ∧ Instr.duartWCrb 0x20 ≠ .boardReset :=
  ⟨⟨_, rfl⟩, nofun, nofun, nofun, nofun, nofun, nofun, nofun, nofun, nofun⟩

theorem witness_TheLevelIsSampledBeforeTheCpuStep :
    (∀ i ∈ [Instr.duartRRhra, .hostReceive .a 1], i ≠ .icPoll) ∧
      ∃ t, runLoopStep [.duartRRhra, .hostReceive .a 1] v3 = .next t :=
  ⟨by decide, _, rfl⟩

/-- The high half reads channel A's holding register, the low half an even address; and the other way about. A word
write of RAM, and one of channel A's transmit holding register, with a change of the input port between the halves. -/
theorem witness_ReceiveBetweenTheHalvesIsBeforeOrAfter :
    (fallsBetweenHalves (.hostReceive .a 0x44) ∧ fallsBetweenHalves (.hostSetInputPort 0x3F)) ∧
      ((0xF00008 : CpuAddr).toNat = ((0xF00007 : CpuAddr).toNat + 1) % 0x1000000 ∧
      ∃ s1 s2 s3, exec (.busRead8 0xF00007) v3 = .next s1 ∧ s1.reply = .byte 0x41 ∧
        exec (.hostReceive .a 0x44) s1 = .next s2 ∧ exec (.busRead8 0xF00008) s2 = .next s3 ∧ s3.reply = .byte 0) ∧
      ((0xF00007 : CpuAddr).toNat = ((0xF00006 : CpuAddr).toNat + 1) % 0x1000000 ∧
      ∃ s1 s2 s3, exec (.busRead8 0xF00006) v3 = .next s1 ∧ s1.reply = .byte 0 ∧
        exec (.hostReceive .a 0x44) s1 = .next s2 ∧ exec (.busRead8 0xF00007) s2 = .next s3 ∧
        s3.reply = .byte 0x41) ∧
      ((0x000000 : CpuAddr).toNat = ((0xFFFFFF : CpuAddr).toNat + 1) % 0x1000000 ∧
      ∃ s1 s2 s3, exec (.busWrite8 0xFFFFFF 0x12) v3 = .next s1 ∧ exec (.hostSetInputPort 0x3F) s1 = .next s2 ∧
        exec (.busWrite8 0x000000 0x34) s2 = .next s3) ∧
      ∃ s1 s2 s3, exec (.busWrite8 0xF00007 0x58) v3 = .next s1 ∧ exec (.hostSetInputPort 0x3F) s1 = .next s2 ∧
        exec (.busWrite8 0xF00008 0) s2 = .next s3 :=
  ⟨⟨.inl ⟨_, _, rfl⟩, .inr ⟨_, rfl⟩⟩, ⟨by decide, _, _, _, rfl, rfl, rfl, rfl, rfl⟩,
    ⟨by decide, _, _, _, rfl, rfl, rfl, rfl, rfl⟩, ⟨by decide, _, _, _, rfl, rfl, rfl⟩, _, _, _, rfl, rfl, rfl⟩

end Sys2Proof.Tests
end

section
/-! PROOFS. What a step and a transaction can do, said once: the equations of `step`, and `Effect`, the four shapes of
the state after a transaction that completes. -/

namespace Sys2Proof.Machine

/-! ## The step (R5, R6) -/

theorem step_of_nothing_pending {s : State} (h : s.pending = []) : step s = .next s := by
  simp [step, runOldest, h]

theorem step_of_pending {s : State} {f : Frame} {rest : List Frame} (h : s.pending = f :: rest) :
    step s = runFrame f (s.withPending rest) := by
  simp [step, runOldest, h]

theorem runFrame_of_decode_ok {f : Frame} {i : Instr} (h : decode f = .ok i) (s : State) :
    runFrame f s = exec i s := by
  simp [runFrame, h]

theorem runFrame_of_decode_error {f : Frame} {e : Reject} (h : decode f = .error e) (s : State) :
    runFrame f s = .refused (.undecodableFrame e) := by
  simp [runFrame, h]

/-- A step that completes stood still, or ran the transaction of the oldest frame. -/
theorem step_next_cases {s t : State} (h : step s = .next t) :
    (s.pending = [] ∧ t = s) ∨
      ∃ f rest i, s.pending = f :: rest ∧ decode f = .ok i ∧ exec i (s.withPending rest) = .next t := by
  cases hp : s.pending with
  | nil =>
    rw [step_of_nothing_pending hp] at h
    cases h
    exact .inl ⟨rfl, rfl⟩
  | cons f rest =>
    rw [step_of_pending hp] at h
    cases hd : decode f with
    | error e => rw [runFrame_of_decode_error hd] at h; cases h
    | ok i => exact .inr ⟨f, rest, i, rfl, hd, by rwa [runFrame_of_decode_ok hd] at h⟩

/-! ## The accesses that `Moves` describes -/

/-- Both machines under the same overlay setting: no operation below a transaction turns it. -/
theorem Moves.withOverlay {s t : State} (h : Moves s t) (b : Bool) : Moves (s.withOverlay b) (t.withOverlay b) :=
  { h with overlay := rfl }

theorem runRead_moves {f : State → Byte × State} {s t : State} (hf : Moves s (f s).2) (h : runRead f s = .next t) :
    Moves s t := by
  cases h
  exact (gatedRead_moves hf).trans (Moves.withReply _ _)

theorem runWrite_moves {r : BitVec 4} {v : Byte} {f : State → State} {s t : State} (hf : Moves s (f s))
    (h : runWrite r v f s = .next t) : Moves s t := by
  cases h
  exact (gatedWrite_moves r v hf).trans (Moves.withReply _ _)

theorem answerRead_next {α : Type} {f : α → Reply} {r : Except Refusal (α × State)} {t : State}
    (h : answerRead f r = .next t) : ∃ x, r = .ok x ∧ t = x.2.withReply (f x.1) := by
  cases r with
  | error e => cases h
  | ok x => cases h; exact ⟨x, rfl, rfl⟩

theorem answerWrite_next {r : Except Refusal State} {t : State} (h : answerWrite r = .next t) :
    ∃ u, r = .ok u ∧ t = answerNothing u := by
  cases r with
  | error e => cases h
  | ok u => cases h; exact ⟨u, rfl, rfl⟩

theorem execBusRead8_moves {a : CpuAddr} {s t : State} (h : execBusRead8 a s = .next t) : Moves s t := by
  obtain ⟨x, hx, rfl⟩ := answerRead_next h
  exact (busRead8_moves hx).trans (Moves.withReply _ _)

theorem execBusRead16_moves {a : CpuAddr} {s t : State} (h : execBusRead16 a s = .next t) : Moves s t := by
  obtain ⟨x, hx, rfl⟩ := answerRead_next h
  exact (busRead16_moves hx).trans (Moves.withReply _ _)

theorem execBusWrite8_moves {a : CpuAddr} {v : Byte} {s t : State} (h : execBusWrite8 a v s = .next t) :
    Moves s t := by
  obtain ⟨u, hu, rfl⟩ := answerWrite_next h
  exact (busWrite8_moves hu).trans (Moves.withReply _ _)

theorem execBusWrite16_moves {a : CpuAddr} {v : Half} {s t : State} (h : execBusWrite16 a v s = .next t) :
    Moves s t := by
  obtain ⟨u, hu, rfl⟩ := answerWrite_next h
  exact (busWrite16_moves hu).trans (Moves.withReply _ _)

/-! ## The configuration calls of the controller (R141, R142, R144, R145) -/

/-- A configuration call answers a Bool and changes the slots alone. -/
def Configures (s t : State) : Prop := ∃ slots b, t = answerBool b (s.withSlots slots)

theorem configures_answerBool (b : Bool) (s : State) : Configures s (answerBool b s) := ⟨s.slots, b, rfl⟩

theorem configures_putSlot (i : Fin 7) (slot : Option Slot) (b : Bool) (s : State) :
    Configures s (answerBool b (putSlot i slot s)) := ⟨_, b, rfl⟩

theorem addSource_configures (src : SourceId) (level : Int) (s : State) : Configures s (addSource src level s) := by
  unfold addSource
  split
  · exact configures_answerBool false s
  · split
    · exact configures_answerBool false s
    · exact configures_putSlot _ _ true s

theorem removeAt_configures (found : Option (Fin 7)) (s : State) : Configures s (removeAt found s) := by
  cases found with
  | none => exact configures_answerBool false s
  | some i => exact configures_putSlot i _ true s

theorem setEnabledAt_configures (found : Option (Fin 7)) (en : Bool) (s : State) :
    Configures s (setEnabledAt found en s) := by
  cases found with
  | none => exact configures_answerBool false s
  | some i => exact configures_putSlot i _ true s

/-! ## What a transaction can do -/

/-- What a transaction that completes leaves: a poll also writes `ipl`, a configuration call writes the slots, a board
reset leaves the overlay off and records what the CPU core read; every other one stays within `Moves`. -/
inductive Effect (s : State) : Instr → State → Prop
  | moves {i : Instr} {t : State} (h : Moves s t) : Effect s i t
  | configures {i : Instr} {t : State} (h : Configures s t) : Effect s i t
  | polled {u : State} (l : BitVec 3) (h : Moves s u) : Effect s .icPoll ((u.withIpl l).withReply (.level l))
  | boardReset {u : State} (reads : List Reply) (h : Moves (s.withOverlay false) u) :
      Effect s .boardReset (answerNothing (u.withResetReads reads))

theorem execBoardReset_effect {s t : State} (h : execBoardReset s = .next t) : Effect s .boardReset t := by
  unfold execBoardReset at h
  split at h
  · cases h
  · rename_i x hx
    cases h
    have underOverlay : Moves (s.withOverlay true) x.2 :=
      ((resetSlots_moves slotOrder s).withOverlay true).trans (runBusCalls_moves hx)
    exact .boardReset x.1 (underOverlay.withOverlay false)

theorem exec_effect {i : Instr} {s t : State} (h : exec i s = .next t) : Effect s i t := by
  cases i with
  | duartRMra => exact .moves (runRead_moves (readReg_moves 0x0 s) h)
  | duartRSra => exact .moves (runRead_moves (readReg_moves 0x1 s) h)
  | duartRMisr => exact .moves (runRead_moves (readReg_moves 0x2 s) h)
  | duartRRhra => exact .moves (runRead_moves (readReg_moves 0x3 s) h)
  | duartRIpcr => exact .moves (runRead_moves (readReg_moves 0x4 s) h)
  | duartRIsr => exact .moves (runRead_moves (readReg_moves 0x5 s) h)
  | duartRCtu => exact .moves (runRead_moves (readReg_moves 0x6 s) h)
  | duartRCtl => exact .moves (runRead_moves (readReg_moves 0x7 s) h)
  | duartRMrb => exact .moves (runRead_moves (readReg_moves 0x8 s) h)
  | duartRSrb => exact .moves (runRead_moves (readReg_moves 0x9 s) h)
  | duartRNoneA => exact .moves (runRead_moves (readReg_moves 0xA s) h)
  | duartRRhrb => exact .moves (runRead_moves (readReg_moves 0xB s) h)
  | duartRIvr => exact .moves (runRead_moves (readReg_moves 0xC s) h)
  | duartRIp => exact .moves (runRead_moves (readReg_moves 0xD s) h)
  | duartRStart => exact .moves (runRead_moves (readReg_moves 0xE s) h)
  | duartRStop => exact .moves (runRead_moves (readReg_moves 0xF s) h)
  | duartWMra v => exact .moves (runWrite_moves (writeReg_moves 0x0 v s) h)
  | duartWCsra v => exact .moves (runWrite_moves (writeReg_moves 0x1 v s) h)
  | duartWCra v => exact .moves (runWrite_moves (writeReg_moves 0x2 v s) h)
  | duartWThra v => exact .moves (runWrite_moves (writeReg_moves 0x3 v s) h)
  | duartWAcr v => exact .moves (runWrite_moves (writeReg_moves 0x4 v s) h)
  | duartWImr v => exact .moves (runWrite_moves (writeReg_moves 0x5 v s) h)
  | duartWCtu v => exact .moves (runWrite_moves (writeReg_moves 0x6 v s) h)
  | duartWCtl v => exact .moves (runWrite_moves (writeReg_moves 0x7 v s) h)
  | duartWMrb v => exact .moves (runWrite_moves (writeReg_moves 0x8 v s) h)
  | duartWCsrb v => exact .moves (runWrite_moves (writeReg_moves 0x9 v s) h)
  | duartWCrb v => exact .moves (runWrite_moves (writeReg_moves 0xA v s) h)
  | duartWThrb v => exact .moves (runWrite_moves (writeReg_moves 0xB v s) h)
  | duartWIvr v => exact .moves (runWrite_moves (writeReg_moves 0xC v s) h)
  | duartWOpcr v => exact .moves (runWrite_moves (writeReg_moves 0xD v s) h)
  | duartWSopr v => exact .moves (runWrite_moves (writeReg_moves 0xE v s) h)
  | duartWRopr v => exact .moves (runWrite_moves (writeReg_moves 0xF v s) h)
  | duartWWake c lo => exact .moves (runWrite_moves (writeCommand_moves c (0xD#4 ++ lo) s) h)
  | busRead8 addr => exact .moves (execBusRead8_moves h)
  | busWrite8 addr v => exact .moves (execBusWrite8_moves h)
  | busRead16 addr => exact .moves (execBusRead16_moves h)
  | busWrite16 addr v => exact .moves (execBusWrite16_moves h)
  | busIackVector level => cases h; exact .moves ((readVector_moves level.toNat s).trans (Moves.withReply _ _))
  | icSourceAdd src level => cases h; exact .configures (addSource_configures src level s)
  | icSourceRemoveLevel level => cases h; exact .configures (removeAt_configures _ s)
  | icSourceRemoveSrc src => cases h; exact .configures (removeAt_configures _ s)
  | icPoll => cases h; exact .polled _ (pollSlots_moves slotOrder 0 s)
  | icSourceEnableLevel level => cases h; exact .configures (setEnabledAt_configures _ true s)
  | icSourceEnableSrc src => cases h; exact .configures (setEnabledAt_configures _ true s)
  | icSourceDisableLevel level => cases h; exact .configures (setEnabledAt_configures _ false s)
  | icSourceDisableSrc src => cases h; exact .configures (setEnabledAt_configures _ false s)
  | icReadVector level => cases h; exact .moves ((readVector_moves level s).trans (Moves.withReply _ _))
  | icReset => cases h; exact .moves ((resetSlots_moves slotOrder s).trans (Moves.withReply _ _))
  | hostReceive c b => cases h; exact .moves ((receiveByte_moves c b s).trans (Moves.withReply _ _))
  | hostSetInputPort v =>
    cases h
    have input : Moves s (s.withDuart (s.duart.setInput v)) :=
      Moves.withDuart s _ (fun hi => Duart.setInput_inv hi v) id
    exact .moves (input.trans (Moves.withReply _ _))
  | boardReset => exact execBoardReset_effect h

end Sys2Proof.Machine
end

section
/-! PROOFS. The machine invariant: after reset, and kept by every step. -/

namespace Sys2Proof.Machine

/-! ## The fields the invariant does not read -/

theorem State.inv_withReply {s : State} (r : Reply) : (s.withReply r).Inv ↔ s.Inv := Iff.rfl
theorem State.inv_withIpl {s : State} (l : BitVec 3) : (s.withIpl l).Inv ↔ s.Inv := Iff.rfl
theorem State.inv_withSlots {s : State} (v : Vector (Option Slot) 7) : (s.withSlots v).Inv ↔ s.Inv := Iff.rfl
theorem State.inv_withResetReads {s : State} (r : List Reply) : (s.withResetReads r).Inv ↔ s.Inv := Iff.rfl
theorem State.inv_withPending {s : State} (p : List Frame) : (s.withPending p).Inv ↔ s.Inv := Iff.rfl

/-! ## The invariant along a step -/

theorem Moves.inv {s t : State} (h : Moves s t) (hs : s.Inv) : t.Inv := by
  obtain ⟨legal, noOverlay, ramWf, ramBelow, romWf, romBelow, clock, chip⟩ := hs
  refine ⟨?_, ?_, h.ramWf ramWf, h.ramBelow ramBelow, ?_, ?_, clock.trans h.clock, h.chip chip⟩
  · rwa [h.params]
  · rwa [h.overlay]
  · rwa [h.rom]
  · rwa [h.rom, h.params]

theorem State.inv_withOverlay_false {s : State} (hs : s.Inv) : (s.withOverlay false).Inv := by
  obtain ⟨legal, -, good⟩ := hs
  exact ⟨legal, rfl, good⟩

theorem Effect.inv {s t : State} {i : Instr} (h : Effect s i t) (hs : s.Inv) : t.Inv := by
  cases h with
  | moves h => exact h.inv hs
  | configures h =>
    obtain ⟨slots, b, rfl⟩ := h
    exact (State.inv_withReply _).mpr ((State.inv_withSlots slots).mpr hs)
  | polled l h => exact (State.inv_withReply _).mpr ((State.inv_withIpl l).mpr (h.inv hs))
  | boardReset reads h =>
    exact (State.inv_withReply _).mpr
      ((State.inv_withResetReads reads).mpr (h.inv (State.inv_withOverlay_false hs)))

theorem exec_inv {i : Instr} {s t : State} (h : exec i s = .next t) (hs : s.Inv) : t.Inv := (exec_effect h).inv hs

theorem step_inv {s t : State} (h : step s = .next t) (hs : s.Inv) : t.Inv := by
  rcases step_next_cases h with ⟨-, rfl⟩ | ⟨f, rest, i, -, -, hexec⟩
  · exact hs
  · exact exec_inv hexec ((State.inv_withPending rest).mpr hs)

/-! ## The invariant at construction -/

theorem Channel.initial_inv : Channel.initial.Inv := Nat.zero_le _

theorem Timer.initial_inv : Timer.initial.Inv := fun started => absurd started Bool.false_ne_true

/-- A good chip whatever the parameters: `IP_INIT` has six bits (R42). -/
theorem Duart.initial_inv (p : Params) : (Duart.initial p).Inv := by
  refine ⟨?_, Nat.zero_lt_succ _, Timer.initial_inv, Channel.initial_inv, Channel.initial_inv⟩
  have sixBits : (p.ipInit.setWidth 8).toNat = p.ipInit.toNat :=
    BitVec.toNat_setWidth_of_le (by decide)
  exact sixBits ▸ p.ipInit.isLt

/-! ## The obligations -/

/-- Settles O1, by the equations of `step` and `runFrame`. -/
theorem stepRunsTheOldestPresentedTransaction : Obligations.StepRunsTheOldestPresentedTransaction := by
  intro s
  refine ⟨step_of_nothing_pending, fun f rest hp => ⟨fun i hd => ?_, fun e hd => ?_⟩⟩
  · rw [step_of_pending hp, runFrame_of_decode_ok hd]
  · rw [step_of_pending hp, runFrame_of_decode_error hd]

/-- Settles O5: the reset state has empty memories and the chip of construction. -/
theorem resetMeetsTheInvariant : Obligations.ResetMeetsTheInvariant :=
  ⟨by decide, rfl, rfl, rfl, rfl, rfl, le_rfl, Duart.initial_inv {}⟩

/-- Settles O6, by the four effects a transaction can have. -/
theorem everyStepKeepsTheInvariant : Obligations.EveryStepKeepsTheInvariant :=
  fun _ _ hs h => step_inv h hs

end Sys2Proof.Machine
end

section
/-! PROOFS. Construction (R8, R36, R386): which parameters are legal, when a board is constructed, and what its slots
bind. -/

/-! ## Legal parameters (R8) -/

namespace Sys2Proof

theorem Params.boundLevels_all (p : Params) (ok : Nat → Bool) :
    p.boundLevels.all ok = true ↔ ok p.duartLevel = true ∧ ∀ e ∈ p.extraSources, ok e.2 = true := by
  simp [Params.boundLevels]

theorem Params.valid_iff (p : Params) : p.valid = true ↔
    0x0FFFFF < p.romBase ∧ p.romBase + p.romSize - 1 < p.ioBase ∧ p.ioBase ≤ 0xFFFFFF ∧
      (1 ≤ p.duartLevel ∧ p.duartLevel ≤ 7) ∧ (∀ e ∈ p.extraSources, 1 ≤ e.2 ∧ e.2 ≤ 7) ∧
      (p.duartLevel :: p.extraSources.map (fun e => e.2)).Nodup ∧ (p.extraSources.map (fun e => e.1)).Nodup := by
  simp only [Params.valid, Bool.and_eq_true, decide_eq_true_eq, Params.boundLevels_all, and_assoc]
  rfl

end Sys2Proof

/-! ## When construction completes (R386) -/

namespace Sys2Proof.Machine

theorem construct_some (p : Params) (m r : Memory) : construct p (some m) (some r) =
    if p.valid then
      if m.wf && m.below Config.ramSize && r.wf && r.below p.romSize then .next (constructed p m r)
      else .refused .noBackingStore
    else .refused .badParameters := rfl

theorem construct_of_good {p : Params} {m r : Memory} (hp : p.valid = true) (hm : m.wf = true)
    (hmb : m.below Config.ramSize = true) (hr : r.wf = true) (hrb : r.below p.romSize = true) :
    construct p (some m) (some r) = .next (constructed p m r) := by
  simp [construct_some, hp, hm, hmb, hr, hrb]

theorem construct_of_invalid {p : Params} (hp : p.valid = false) (m r : Memory) :
    construct p (some m) (some r) = .refused .badParameters := by
  simp [construct_some, hp]

theorem construct_no_ram (p : Params) (rom : Backing) : construct p none rom = .refused .noBackingStore := rfl

theorem construct_no_rom (p : Params) (m : Memory) : construct p (some m) none = .refused .noBackingStore := rfl

/-- A construction that completes had legal parameters and two canonical buffers of their size. -/
theorem construct_next {p : Params} {ram rom : Backing} {s : State} (h : construct p ram rom = .next s) :
    ∃ m r, ram = some m ∧ rom = some r ∧ p.valid = true ∧ m.wf = true ∧ m.below Config.ramSize = true ∧
      r.wf = true ∧ r.below p.romSize = true ∧ s = constructed p m r := by
  cases ram with
  | none => rw [construct_no_ram] at h; cases h
  | some m =>
    cases rom with
    | none => rw [construct_no_rom] at h; cases h
    | some r =>
      rw [construct_some] at h
      split at h
      · rename_i hp
        split at h
        · rename_i hbuf
          simp only [Bool.and_eq_true, and_assoc] at hbuf
          obtain ⟨hm, hmb, hr, hrb⟩ := hbuf
          cases h
          exact ⟨m, r, rfl, rfl, hp, hm, hmb, hr, hrb, rfl⟩
        · cases h
      · cases h

theorem constructed_inv {p : Params} {m r : Memory} (hp : p.valid = true) (hm : m.wf = true)
    (hmb : m.below Config.ramSize = true) (hr : r.wf = true) (hrb : r.below p.romSize = true) :
    (constructed p m r).Inv :=
  ⟨hp, rfl, hm, hmb, hr, hrb, le_rfl, Duart.initial_inv p⟩

theorem constructed_chan (p : Params) (m r : Memory) (c : ChanId) :
    (constructed p m r).chan c = Channel.initial := by
  cases c <;> rfl

/-! ## The slots at construction (R36) -/

theorem levelIndex_eq_some_iff (level : Int) (i : Fin 7) : levelIndex level = some i ↔ (i.val : Int) + 1 = level := by
  unfold levelIndex
  split
  · rw [Option.some_inj, Fin.ext_iff]
    simp only
    omega
  · constructor
    · intro h; cases h
    · intro h; omega

/-- Binding a source fills the slot of its level and no other. -/
theorem get_bindAt (src : SourceId) (level : Nat) (v : Vector (Option Slot) 7) (i : Fin 7) :
    (bindAt src level v).get i = if i.val + 1 = level then some ⟨src, true⟩ else v.get i := by
  unfold bindAt
  cases hl : levelIndex level with
  | none =>
    have other : i.val + 1 ≠ level := fun h => by
      have := (levelIndex_eq_some_iff level i).mpr (by omega)
      rw [hl] at this
      cases this
    rw [if_neg other]
  | some j =>
    have hj := (levelIndex_eq_some_iff level j).mp hl
    have sameSlot : i.val + 1 = level ↔ j.val = i.val := by omega
    simp only [sameSlot]
    exact Vector.getElem_set ..

/-- The extra sources bound one after another, as construction does. -/
def bindExtras (extras : List (Byte × Nat)) (v : Vector (Option Slot) 7) : Vector (Option Slot) 7 :=
  extras.foldl (fun v e => bindAt (.extra e.1) e.2 v) v

theorem constructedSlots_eq (p : Params) :
    constructedSlots p = bindExtras p.extraSources (bindAt .duart p.duartLevel (Vector.replicate 7 none)) := rfl

theorem bindExtras_cons (e : Byte × Nat) (rest : List (Byte × Nat)) (v : Vector (Option Slot) 7) :
    bindExtras (e :: rest) v = bindExtras rest (bindAt (.extra e.1) e.2 v) := rfl

theorem get_bindExtras_of_unlisted {extras : List (Byte × Nat)} {i : Fin 7} (v : Vector (Option Slot) 7)
    (h : ∀ e ∈ extras, i.val + 1 ≠ e.2) : (bindExtras extras v).get i = v.get i := by
  induction extras generalizing v with
  | nil => rfl
  | cons e rest ih =>
    obtain ⟨hhead, hrest⟩ := List.forall_mem_cons.mp h
    rw [bindExtras_cons, ih _ hrest, get_bindAt, if_neg hhead]

theorem unlisted_of_notMem {extras : List (Byte × Nat)} {i : Fin 7} {level : Nat}
    (h : level ∉ extras.map (fun e => e.2)) (hi : i.val + 1 = level) : ∀ e ∈ extras, i.val + 1 ≠ e.2 :=
  fun e he heq => h (List.mem_map.mpr ⟨e, he, heq.symm.trans hi⟩)

/-- With no level shared, an extra source is bound at its own level: no later one overwrites it. -/
theorem get_bindExtras_of_mem {extras : List (Byte × Nat)} {e : Byte × Nat} {i : Fin 7}
    (v : Vector (Option Slot) 7) (hnd : (extras.map (fun e => e.2)).Nodup) (he : e ∈ extras) (hi : i.val + 1 = e.2) :
    (bindExtras extras v).get i = some ⟨.extra e.1, true⟩ := by
  induction extras generalizing v with
  | nil => cases he
  | cons e' rest ih =>
    obtain ⟨hfresh, hrest⟩ := List.nodup_cons.mp hnd
    rw [bindExtras_cons]
    rcases List.mem_cons.mp he with rfl | hin
    · rw [get_bindExtras_of_unlisted _ (unlisted_of_notMem hfresh hi), get_bindAt, if_pos hi]
    · exact ih _ hrest hin

theorem constructedSlots_get_duart {p : Params} (hp : p.valid = true) {i : Fin 7} (hi : i.val + 1 = p.duartLevel) :
    (constructedSlots p).get i = some ⟨.duart, true⟩ := by
  obtain ⟨-, -, -, -, -, hnd, -⟩ := p.valid_iff.mp hp
  obtain ⟨hfresh, -⟩ := List.nodup_cons.mp hnd
  rw [constructedSlots_eq, get_bindExtras_of_unlisted _ (unlisted_of_notMem hfresh hi), get_bindAt, if_pos hi]

theorem constructedSlots_get_extra {p : Params} (hp : p.valid = true) {e : Byte × Nat} (he : e ∈ p.extraSources)
    {i : Fin 7} (hi : i.val + 1 = e.2) : (constructedSlots p).get i = some ⟨.extra e.1, true⟩ := by
  obtain ⟨-, -, -, -, -, hnd, -⟩ := p.valid_iff.mp hp
  exact get_bindExtras_of_mem _ (List.nodup_cons.mp hnd).2 he hi

theorem constructedSlots_get_other {p : Params} {i : Fin 7} (hd : i.val + 1 ≠ p.duartLevel)
    (he : ∀ e ∈ p.extraSources, i.val + 1 ≠ e.2) : (constructedSlots p).get i = none := by
  rw [constructedSlots_eq, get_bindExtras_of_unlisted _ he, get_bindAt, if_neg hd]
  exact Vector.getElem_replicate ..

/-! ## The obligation -/

/-- Settles O7: a construction that completes answers `constructed` of legal parameters. -/
theorem constructionGivesAGoodBoardOrIsRefused : Obligations.ConstructionGivesAGoodBoardOrIsRefused := by
  refine ⟨Params.valid_iff, fun p ram rom hp hm hmb hr hrb => ⟨_, construct_of_good hp hm hmb hr hrb⟩, ?_, ?_⟩
  · intro p ram rom s h
    obtain ⟨m, r, rfl, rfl, hp, hm, hmb, hr, hrb, rfl⟩ := construct_next h
    exact ⟨constructed_inv hp hm hmb hr hrb, rfl, rfl, rfl, rfl, rfl,
      ⟨rfl, rfl, rfl, rfl, rfl, rfl, rfl, rfl, rfl, rfl, constructed_chan p m r⟩,
      fun _ hi => constructedSlots_get_duart hp hi, fun _ he _ hi => constructedSlots_get_extra hp he hi,
      fun _ hd he => constructedSlots_get_other hd he⟩
  · exact fun p ram rom =>
      ⟨fun hp => construct_of_invalid hp ram rom, construct_no_ram p (some rom), construct_no_rom p ram⟩

end Sys2Proof.Machine
end

section
/-! PROOFS. What no transaction takes back: `Moves` speaks of every transaction once the fields that only a
configuration call, a poll, a board reset or the queue writes are set aside. -/

namespace Sys2Proof.Machine

/-! ## The fields that `Moves` fixes and a whole transaction may write -/

/-- `t` with the overlay, slots, `ipl`, reset reads and queue of `s`: all of `t` but what a configuration call, a poll,
a board reset or the taking of a frame can write beside `Moves`. -/
def State.withControlOf (t s : State) : State :=
  ((((t.withOverlay s.overlay).withSlots s.slots).withIpl s.ipl).withResetReads s.resetReads).withPending s.pending

@[simp] theorem State.withControlOf_self (s : State) : s.withControlOf s = s := rfl
@[simp] theorem State.withControlOf_withControlOf (t k s : State) :
    (t.withControlOf k).withControlOf s = t.withControlOf s := rfl
@[simp] theorem State.withOverlay_withControlOf (t s : State) (b : Bool) :
    (t.withOverlay b).withControlOf s = t.withControlOf s := rfl
@[simp] theorem State.withSlots_withControlOf (t s : State) (v : Vector (Option Slot) 7) :
    (t.withSlots v).withControlOf s = t.withControlOf s := rfl
@[simp] theorem State.withIpl_withControlOf (t s : State) (l : BitVec 3) :
    (t.withIpl l).withControlOf s = t.withControlOf s := rfl
@[simp] theorem State.withResetReads_withControlOf (t s : State) (r : List Reply) :
    (t.withResetReads r).withControlOf s = t.withControlOf s := rfl
@[simp] theorem State.withPending_withControlOf (t s : State) (p : List Frame) :
    (t.withPending p).withControlOf s = t.withControlOf s := rfl
@[simp] theorem State.withReply_withControlOf (t s : State) (r : Reply) :
    (t.withReply r).withControlOf s = (t.withControlOf s).withReply r := rfl

@[simp] theorem State.withControlOf_params (t s : State) : (t.withControlOf s).params = t.params := rfl
@[simp] theorem State.withControlOf_rom (t s : State) : (t.withControlOf s).rom = t.rom := rfl
@[simp] theorem State.withControlOf_duart (t s : State) : (t.withControlOf s).duart = t.duart := rfl
@[simp] theorem State.withControlOf_txTrace (t s : State) : (t.withControlOf s).txTrace = t.txTrace := rfl
@[simp] theorem State.withControlOf_env (t s : State) : (t.withControlOf s).env = t.env := rfl

theorem Moves.withControlOf {s t : State} (h : Moves s t) (k : State) :
    Moves (s.withControlOf k) (t.withControlOf k) :=
  { h with overlay := rfl, slots := rfl, ipl := rfl, resetReads := rfl, pending := rfl }

/-! ## A transaction and a step stay within `Moves` but for these fields -/

theorem Effect.moves_withControlOf {s t : State} {i : Instr} (h : Effect s i t) : Moves s (t.withControlOf s) := by
  cases h with
  | moves h => simpa using h.withControlOf s
  | configures h =>
    obtain ⟨slots, b, rfl⟩ := h
    simpa [answerBool] using Moves.withReply s (.bool b)
  | polled l h => simpa using (h.withControlOf s).trans (Moves.withReply _ (.level l))
  | boardReset reads h => simpa [answerNothing] using (h.withControlOf s).trans (Moves.withReply _ .nothing)

theorem exec_moves_withControlOf {i : Instr} {s t : State} (h : exec i s = .next t) : Moves s (t.withControlOf s) :=
  (exec_effect h).moves_withControlOf

theorem step_moves_withControlOf {s t : State} (h : step s = .next t) : Moves s (t.withControlOf s) := by
  rcases step_next_cases h with ⟨-, rfl⟩ | ⟨f, rest, i, -, -, hexec⟩
  · exact Moves.refl t
  · simpa using (exec_moves_withControlOf hexec).withControlOf s

/-! ## The obligations -/

/-- Settles O25: the one operation that sets `standby`, command 0xC, is guarded by the parameter, and `Moves` carries
that through every transaction, a reset included. -/
theorem noTransactionEntersStandbyUnlessConfigured : Obligations.NoTransactionEntersStandbyUnlessConfigured := by
  intro s t i h unconfigured awake
  simpa using (exec_moves_withControlOf h).standby unconfigured awake

/-- Settles O54: what `Moves` says of ROM, parameters, transmit trace and clock, for a step. -/
theorem romTraceAndClockNeverGoBack : Obligations.RomTraceAndClockNeverGoBack := by
  intro s t h
  have moves := step_moves_withControlOf h
  simpa using And.intro moves.rom ⟨moves.params, moves.trace, moves.clock⟩

end Sys2Proof.Machine
end

section
/-! PROOFS. The address decoder: which addresses each region holds, and which register an I/O address reaches. -/

namespace Sys2Proof.Machine

/-! ## The 24-bit address (R71, R80) -/

/-- Reducing an address to 24 bits reads its bits 23..0 alone. -/
theorem setWidth_eq_of_and_eq {addr addr' : CpuAddr} (h : addr &&& 0xFFFFFF = addr' &&& 0xFFFFFF) :
    addr.setWidth 24 = addr'.setWidth 24 := by
  have low (b : CpuAddr) : (b.setWidth 24).toNat = (b &&& 0xFFFFFF).toNat := by
    rw [BitVec.toNat_setWidth, BitVec.toNat_and]
    exact (Nat.and_two_pow_sub_one_eq_mod b.toNat 24).symm
  apply BitVec.eq_of_toNat_eq
  rw [low, low, h]

theorem toNat_nextAddr (a : BusAddr) : (nextAddr a).toNat = (a.toNat + 1) % 0x1000000 := BitVec.toNat_add a 1

theorem toNat_nextAddr_of_lt {a : BusAddr} (h : a.toNat + 1 < 0x1000000) : (nextAddr a).toNat = a.toNat + 1 := by
  rw [toNat_nextAddr, Nat.mod_eq_of_lt h]

/-- The CPU address one up, modulo 2^24, is the bus address of the second byte. -/
theorem setWidth_eq_nextAddr {addr addr' : CpuAddr} (h : addr'.toNat = (addr.toNat + 1) % 0x1000000) :
    addr'.setWidth 24 = nextAddr (addr.setWidth 24) := by
  apply BitVec.eq_of_toNat_eq
  rw [toNat_nextAddr, BitVec.toNat_setWidth, BitVec.toNat_setWidth]
  omega

/-! ## Regions (R72) -/

theorem regionOf_eq_low_iff (p : Params) (a : BusAddr) : regionOf p a = .low ↔ a.toNat ≤ 0x0FFFFF := by
  unfold regionOf Config.ramSize
  split_ifs <;> simp <;> omega

theorem regionOf_eq_romWin_iff {p : Params} (hp : p.valid = true) (a : BusAddr) :
    regionOf p a = .romWin ↔ p.romBase ≤ a.toNat ∧ a.toNat < p.romBase + p.romSize := by
  obtain ⟨aboveRam, -⟩ := p.valid_iff.mp hp
  unfold regionOf Config.ramSize
  split_ifs <;> simp <;> omega

theorem regionOf_eq_io_iff {p : Params} (hp : p.valid = true) (a : BusAddr) :
    regionOf p a = .io ↔ p.ioBase ≤ a.toNat := by
  obtain ⟨aboveRam, aboveRom, -⟩ := p.valid_iff.mp hp
  unfold regionOf Config.ramSize
  split_ifs <;> simp <;> omega

/-- The void is what the other three regions leave. -/
theorem regionOf_eq_void_iff (p : Params) (a : BusAddr) :
    regionOf p a = .void ↔ regionOf p a ≠ .low ∧ regionOf p a ≠ .io ∧ regionOf p a ≠ .romWin := by
  cases regionOf p a <;> simp

/-! ## Registers in the I/O window (R75, R76) -/

theorem getLsbD_zero_eq (a : BusAddr) : a.getLsbD 0 = decide (a.toNat % 2 = 1) := Nat.testBit_zero a.toNat

theorem relAddr_eq (p : Params) (a : BusAddr) : relAddr p a = (a.toNat - p.ioBase) / 2 % 256 :=
  Nat.and_two_pow_sub_one_eq_mod _ 8

theorem liveReg_of_even {p : Params} {a : BusAddr} (h : a.toNat % 2 = 0) : liveReg p a = none := by
  have inert : ¬a.getLsbD 0 = true := by rw [getLsbD_zero_eq, decide_eq_true_iff]; omega
  rw [liveReg, if_neg inert]

theorem liveReg_of_odd {p : Params} {a : BusAddr} {r : BitVec 4} (h : a.toNat % 2 = 1)
    (hr : relAddr p a = r.toNat) : liveReg p a = some r := by
  have live : a.getLsbD 0 = true := by rw [getLsbD_zero_eq, decide_eq_true_iff]; exact h
  rw [liveReg, if_pos live, hr, if_pos (Nat.le_of_lt_succ r.isLt), BitVec.ofNat_toNat, BitVec.setWidth_eq]

/-- One of two neighbouring addresses is even, across the top of the space too: no word access reaches two registers
(R81). -/
theorem liveReg_none_or_next (p : Params) (a : BusAddr) : liveReg p a = none ∨ liveReg p (nextAddr a) = none := by
  rcases Nat.mod_two_eq_zero_or_one a.toNat with even | odd
  · exact .inl (liveReg_of_even even)
  · have next := toNat_nextAddr a
    exact .inr (liveReg_of_even (by omega))

/-! ## The obligations -/

/-- Settles O26: each region's range, the void's as the complement of the others'. -/
theorem regionsPartitionTheBusSpace : Obligations.RegionsPartitionTheBusSpace := by
  intro p a hp
  refine ⟨regionOf_eq_low_iff p a, regionOf_eq_romWin_iff hp a, regionOf_eq_io_iff hp a, ?_⟩
  rw [regionOf_eq_void_iff, Ne, Ne, Ne, regionOf_eq_low_iff, regionOf_eq_io_iff hp, regionOf_eq_romWin_iff hp,
    not_le, not_le]

/-- Settles O27: the offset 0x200*k + 2*r + 1 is odd, and half of it is r modulo 256. -/
theorem registersRepeatThroughTheIoWindow : Obligations.RegistersRepeatThroughTheIoWindow := by
  intro p r k hp evenBase inWindow
  have rlt : r.toNat < 16 := r.isLt
  generalize ha : BitVec.ofNat 24 (p.ioBase + 0x200 * k + 2 * r.toNat + 1) = a
  have value : a.toNat = p.ioBase + 0x200 * k + 2 * r.toNat + 1 := by
    rw [← ha, BitVec.toNat_ofNat]
    exact Nat.mod_eq_of_lt (by omega)
  have half : relAddr p a = r.toNat := by
    rw [relAddr_eq, value]
    omega
  exact ⟨(regionOf_eq_io_iff hp a).mpr (by omega), liveReg_of_odd (by omega) half⟩

end Sys2Proof.Machine
end

section
/-! PROOFS. The bus calls: what a byte access answers and does in each region, with the overlay off and on, what a word
access composes from two of them, and the obligations about RAM, ROM and the void. -/

namespace Sys2Proof.Machine

section

variable {s t : State} {a : BusAddr} {v : Byte}

/-! ## Byte accesses by region (R73, R74, R77) -/

theorem busRead8_low (hr : regionOf s.params a = .low) (ho : s.overlay = false) :
    busRead8 a s = .ok (memRead s.ram a.toNat, s) := by simp [busRead8, hr, ho]

theorem busRead8_ram (inRam : a.toNat ≤ 0x0FFFFF) (ho : s.overlay = false) :
    busRead8 a s = .ok (memRead s.ram a.toNat, s) := busRead8_low ((regionOf_eq_low_iff _ a).mpr inRam) ho

theorem busRead8_romWin (hr : regionOf s.params a = .romWin) (ho : s.overlay = false) :
    busRead8 a s = .ok (memRead s.rom (a.toNat - s.params.romBase), s) := by simp [busRead8, romOffset, hr, ho]

theorem busRead8_void (hr : regionOf s.params a = .void) : busRead8 a s = .ok (0x00, s) := by simp [busRead8, hr]

theorem busRead8_io (hr : regionOf s.params a = .io) : busRead8 a s = .ok (ioRead a s) := by simp [busRead8, hr]

theorem busWrite8_low (hr : regionOf s.params a = .low) (ho : s.overlay = false) :
    busWrite8 a v s = .ok (s.withRam (memWrite s.ram a.toNat v)) := by simp [busWrite8, hr, ho]

theorem busWrite8_ram (inRam : a.toNat ≤ 0x0FFFFF) (ho : s.overlay = false) :
    busWrite8 a v s = .ok (s.withRam (memWrite s.ram a.toNat v)) :=
  busWrite8_low ((regionOf_eq_low_iff _ a).mpr inRam) ho

theorem busWrite8_romWin (hr : regionOf s.params a = .romWin) (ho : s.overlay = false) :
    busWrite8 a v s = .ok s := by simp [busWrite8, hr, ho]

theorem busWrite8_void (hr : regionOf s.params a = .void) : busWrite8 a v s = .ok s := by simp [busWrite8, hr]

theorem busWrite8_io (hr : regionOf s.params a = .io) : busWrite8 a v s = .ok (ioWrite a v s) := by
  simp [busWrite8, hr]

/-! ## Under the boot overlay (R83, R171, R173) -/

theorem busRead8_low_overlay (hr : regionOf s.params a = .low) (ho : s.overlay = true) :
    busRead8 a s = overlayRead s.rom s.params.romSize a.toNat s := by simp [busRead8, hr, ho]

theorem busRead8_romWin_overlay (hr : regionOf s.params a = .romWin) (ho : s.overlay = true) :
    busRead8 a s = overlayRead s.ram Config.ramSize (a.toNat - s.params.romBase) s := by
  simp [busRead8, romOffset, hr, ho]

theorem overlayRead_inside {m : Memory} {size offset : Nat} (h : offset < size) :
    overlayRead m size offset s = .ok (memRead m offset, s) := if_pos h

theorem overlayRead_beyond {m : Memory} {size offset : Nat} (h : size ≤ offset) :
    overlayRead m size offset s = .error .overlayBeyondBuffer := if_neg (Nat.not_lt.mpr h)

theorem busWrite8_overlay (hr : regionOf s.params a = .low ∨ regionOf s.params a = .romWin)
    (ho : s.overlay = true) : busWrite8 a v s = .error .writeDuringOverlay := by
  rcases hr with hr | hr <;> simp [busWrite8, hr, ho]

/-! ## Word accesses (R175, R177) -/

theorem busRead16_of_bytes {hi lo : Byte × State} (h1 : busRead8 a s = .ok hi)
    (h2 : busRead8 (nextAddr a) hi.2 = .ok lo) : busRead16 a s = .ok (hi.1 ++ lo.1, lo.2) := by
  simp [busRead16, h1, h2]

theorem busWrite16_of_bytes {w : Half} (h1 : busWrite8 a (w.extractLsb' 8 8) s = .ok t) :
    busWrite16 a w s = busWrite8 (nextAddr a) (w.setWidth 8) t := by
  simp [busWrite16, h1]

/-! ## The rows over them -/

theorem exec_busRead8 (addr : CpuAddr) (s : State) :
    exec (.busRead8 addr) s = answerRead .byte (busRead8 (addr.setWidth 24) s) := rfl

theorem exec_busWrite8 (addr : CpuAddr) (v : Byte) (s : State) :
    exec (.busWrite8 addr v) s = answerWrite (busWrite8 (addr.setWidth 24) v s) := rfl

theorem exec_busRead16 (addr : CpuAddr) (s : State) :
    exec (.busRead16 addr) s = answerRead .word (busRead16 (addr.setWidth 24) s) := rfl

theorem exec_busWrite16 (addr : CpuAddr) (w : Half) (s : State) :
    exec (.busWrite16 addr w) s = answerWrite (busWrite16 (addr.setWidth 24) w s) := rfl

@[simp] theorem answerRead_ok {α : Type} (f : α → Reply) (x : α × State) :
    answerRead f (.ok x) = .next (x.2.withReply (f x.1)) := rfl

@[simp] theorem answerRead_error {α : Type} (f : α → Reply) (e : Refusal) :
    answerRead f (.error e) = .refused e := rfl

@[simp] theorem answerWrite_ok (s : State) : answerWrite (.ok s) = .next (s.withReply .nothing) := rfl

@[simp] theorem answerWrite_error (e : Refusal) : answerWrite (.error e) = .refused e := rfl

/-! ## A store in RAM, and a read after it -/

theorem memRead_memWrite {m : Memory} (h : m.wf = true) (i j : Nat) (v : Byte) :
    memRead (memWrite m i v) j = if j = i then v else memRead m j := by
  split
  · next same => rw [same]; exact memRead_memWrite_same h i v
  · next other => exact memRead_memWrite_other m v (Ne.symm other)

/-- The RAM after a word write at index `i`: the high byte at `i`, the low byte behind it (R78). -/
def storeWord (m : Memory) (i : Nat) (w : Half) : Memory :=
  memWrite (memWrite m i (w.extractLsb' 8 8)) (i + 1) (w.setWidth 8)

theorem storeWord_wf {m : Memory} (h : m.wf = true) (i : Nat) (w : Half) : (storeWord m i w).wf = true :=
  memWrite_wf (memWrite_wf h _ _) _ _

theorem memRead_storeWord {m : Memory} (h : m.wf = true) (i j : Nat) (w : Half) :
    memRead (storeWord m i w) j =
      if j = i + 1 then w.setWidth 8 else if j = i then w.extractLsb' 8 8 else memRead m j := by
  rw [storeWord, memRead_memWrite (memWrite_wf h _ _), memRead_memWrite h]

theorem busRead16_ram (inRam : a.toNat + 1 ≤ 0x0FFFFF) (ho : s.overlay = false) :
    busRead16 a s = .ok (memRead s.ram a.toNat ++ memRead s.ram (a.toNat + 1), s) := by
  have next : (nextAddr a).toNat = a.toNat + 1 := toNat_nextAddr_of_lt (by omega)
  rw [busRead16_of_bytes (busRead8_ram (by omega) ho) (busRead8_ram (by omega) ho), next]

theorem busWrite16_ram (inRam : a.toNat + 1 ≤ 0x0FFFFF) (ho : s.overlay = false) (w : Half) :
    busWrite16 a w s = .ok (s.withRam (storeWord s.ram a.toNat w)) := by
  have next : (nextAddr a).toNat = a.toNat + 1 := toNat_nextAddr_of_lt (by omega)
  rw [busWrite16_of_bytes (busWrite8_ram (by omega) ho), busWrite8_ram (next ▸ inRam), next]
  · rfl
  · exact ho

end

/-! ## The obligations -/

/-- Settles O31: the rows read the reduced address alone. -/
theorem busAddressesAreMaskedTo24Bits : Obligations.BusAddressesAreMaskedTo24Bits := by
  intro s addr addr' v w h
  have same := setWidth_eq_of_and_eq h
  simp only [exec_busRead8, exec_busWrite8, exec_busRead16, exec_busWrite16, same, and_self]

/-- Settles O28, by region. -/
theorem byteReadsOfRamRomAndVoid : Obligations.ByteReadsOfRamRomAndVoid := by
  rintro s addr a ho rfl
  refine ⟨fun hr => ?_, fun hr => ?_, fun hr => ?_⟩
  · rw [exec_busRead8, busRead8_low hr ho, answerRead_ok]
  · rw [exec_busRead8, busRead8_romWin hr ho, answerRead_ok]
  · rw [exec_busRead8, busRead8_void hr, answerRead_ok]

/-- Settles O29, by region; in RAM by the laws of a store in a canonical memory. -/
theorem byteWritesOfRamRomAndVoid : Obligations.ByteWritesOfRamRomAndVoid := by
  rintro s addr v a ho hw rfl
  refine ⟨fun hr => ⟨_, ?_, memWrite_wf hw _ v, memRead_memWrite_same hw _ v,
    fun n hn => memRead_memWrite_other s.ram v hn.symm⟩, ?_⟩
  · rw [exec_busWrite8, busWrite8_low hr ho, answerWrite_ok]
  · rintro (hr | hr)
    · rw [exec_busWrite8, busWrite8_romWin hr ho, answerWrite_ok]
    · rw [exec_busWrite8, busWrite8_void hr, answerWrite_ok]

/-- Settles O36, by region. -/
theorem overlayExchangesTheBuffers : Obligations.OverlayExchangesTheBuffers := by
  rintro s addr v a ho rfl
  refine ⟨fun hr => ⟨fun inside => ?_, fun beyond => ?_, ?_⟩, fun hr => ⟨fun inside => ?_, ?_⟩,
    fun hr => ⟨?_, ?_⟩⟩
  · rw [exec_busRead8, busRead8_low_overlay hr ho, overlayRead_inside inside, answerRead_ok]
  · rw [exec_busRead8, busRead8_low_overlay hr ho, overlayRead_beyond beyond, answerRead_error]
  · rw [exec_busWrite8, busWrite8_overlay (.inl hr) ho, answerWrite_error]
  · rw [exec_busRead8, busRead8_romWin_overlay hr ho, overlayRead_inside (size := Config.ramSize) inside,
      answerRead_ok]
  · rw [exec_busWrite8, busWrite8_overlay (.inr hr) ho, answerWrite_error]
  · rw [exec_busRead8, busRead8_void hr, answerRead_ok]
  · rw [exec_busWrite8, busWrite8_void hr, answerWrite_ok]

/-- Settles O33: both byte addresses are in RAM, and the second does not wrap. -/
theorem ramWordsAreBigEndian : Obligations.RamWordsAreBigEndian := by
  rintro s addr w a ho hw rfl inRam
  have bytes := memRead_storeWord hw (addr.setWidth 24).toNat (w := w)
  refine ⟨by rw [exec_busRead16, busRead16_ram inRam ho, answerRead_ok], storeWord s.ram _ w,
    ?_, storeWord_wf hw (addr.setWidth 24).toNat w, ?_, ?_, fun n high low => ?_⟩
  · rw [exec_busWrite16, busWrite16_ram inRam ho, answerWrite_ok]
  · rw [bytes, if_neg (by omega), if_pos rfl]
  · rw [bytes, if_pos rfl, BitVec.setWidth_eq_extractLsb' (by decide)]
  · rw [bytes, if_neg low, if_neg high]

/-- Settles O35: the write stored its byte in RAM, and the read finds it there and the others as they were. -/
theorem ramReadsTheLatestWrite : Obligations.RamReadsTheLatestWrite := by
  intro s t addr addr' v ho hw inRam inRam' write
  rw [exec_busWrite8, busWrite8_ram inRam ho, answerWrite_ok] at write
  cases write
  rw [exec_busRead8, busRead8_ram inRam', answerRead_ok]
  · simp only [State.withReply_ram, State.withRam_ram, memRead_memWrite hw, BitVec.toNat_inj]
  · exact ho

end Sys2Proof.Machine
end

section
/-! PROOFS. A host step between the byte halves of a word access (R81). The step changes the chip alone, and an access
of an address with no live register neither reads nor writes the chip, so the two commute. One of two neighbouring
addresses has no live register. -/

namespace Sys2Proof.Machine

/-! ## The host steps that can fall between the halves (R283, R305) -/

/-- `receive(c, b)` on the chip. -/
def Duart.receive (c : ChanId) (b : Byte) (d : Duart) : Duart :=
  if (d.chan c).rxEn then
    if (d.chan c).fifo.length = Config.fifoCap then d
    else d.setChan c { d.chan c with fifo := (d.chan c).fifo ++ [b] }
  else d

theorem receiveByte_eq (c : ChanId) (b : Byte) (s : State) :
    receiveByte c b s = s.withDuart (s.duart.receive c b) := by
  unfold receiveByte Duart.receive State.chan State.setChan
  split_ifs <;> rfl

/-- The same machine but for its chip and its reply. -/
def State.withChipReply (s : State) (d : Duart) (r : Reply) : State := (s.withDuart d).withReply r

@[simp] theorem State.withChipReply_self (s : State) : s.withChipReply s.duart s.reply = s := rfl
@[simp] theorem State.withChipReply_duart_self (s : State) (r : Reply) :
    s.withChipReply s.duart r = s.withReply r := rfl
@[simp] theorem State.withChipReply_withChipReply (s : State) (d d' : Duart) (r r' : Reply) :
    (s.withChipReply d r).withChipReply d' r' = s.withChipReply d' r' := rfl
@[simp] theorem State.withReply_withChipReply (s : State) (d : Duart) (r r' : Reply) :
    (s.withReply r).withChipReply d r' = s.withChipReply d r' := rfl
@[simp] theorem State.withChipReply_withReply (s : State) (d : Duart) (r r' : Reply) :
    (s.withChipReply d r).withReply r' = s.withChipReply d r' := rfl
@[simp] theorem State.withChipReply_duart (s : State) (d : Duart) (r : Reply) : (s.withChipReply d r).duart = d := rfl

/-- Such a host step updates the chip, by the chip alone, and answers nothing. -/
theorem exec_of_fallsBetweenHalves {h : Instr} (hh : fallsBetweenHalves h) :
    ∃ f : Duart → Duart, ∀ s, exec h s = .next (s.withChipReply (f s.duart) .nothing) := by
  rcases hh with ⟨c, b, rfl⟩ | ⟨v, rfl⟩
  · refine ⟨Duart.receive c b, fun s => ?_⟩
    rw [State.withChipReply, ← receiveByte_eq]
    rfl
  · exact ⟨fun d => d.setInput v, fun _ => rfl⟩

/-! ## Accesses that reach no register -/

theorem overlayRead_ok {m : Memory} {size offset : Nat} {s : State} {x : Byte × State}
    (h : overlayRead m size offset s = .ok x) : x.2 = s ∧ ∀ u, overlayRead m size offset u = .ok (x.1, u) := by
  unfold overlayRead at h ⊢
  split at h
  · next inside => cases h; exact ⟨rfl, fun u => if_pos inside⟩
  · cases h

section

variable {s : State} {a : BusAddr} (dead : liveReg s.params a = none)
include dead

theorem ioRead_of_dead : ioRead a s = (0x00, s) := by simp [ioRead, dead]

theorem ioWrite_of_dead (v : Byte) : ioWrite a v s = s := by simp [ioWrite, dead]

/-- A read that reaches no register changes nothing, and answers the same whatever the chip. -/
theorem busRead8_of_dead {x : Byte × State} (h : busRead8 a s = .ok x) :
    x.2 = s ∧ ∀ d r, busRead8 a (s.withChipReply d r) = .ok (x.1, s.withChipReply d r) := by
  cases hr : regionOf s.params a with
  | low =>
    cases ho : s.overlay with
    | false => rw [busRead8_low hr ho] at h; cases h; exact ⟨rfl, fun d r => busRead8_low hr ho⟩
    | true =>
      rw [busRead8_low_overlay hr ho] at h
      obtain ⟨same, any⟩ := overlayRead_ok h
      exact ⟨same, fun d r => (busRead8_low_overlay (s := s.withChipReply d r) hr ho).trans (any _)⟩
  | romWin =>
    cases ho : s.overlay with
    | false => rw [busRead8_romWin hr ho] at h; cases h; exact ⟨rfl, fun d r => busRead8_romWin hr ho⟩
    | true =>
      rw [busRead8_romWin_overlay hr ho] at h
      obtain ⟨same, any⟩ := overlayRead_ok h
      exact ⟨same, fun d r => (busRead8_romWin_overlay (s := s.withChipReply d r) hr ho).trans (any _)⟩
  | void => rw [busRead8_void hr] at h; cases h; exact ⟨rfl, fun d r => busRead8_void hr⟩
  | io =>
    rw [busRead8_io hr, ioRead_of_dead dead] at h
    cases h
    refine ⟨rfl, fun d r => (busRead8_io (s := s.withChipReply d r) hr).trans ?_⟩
    rw [ioRead_of_dead (s := s.withChipReply d r) dead]

/-- A write that reaches no register leaves the chip, and does the same whatever the chip. -/
theorem busWrite8_of_dead {v : Byte} {t : State} (h : busWrite8 a v s = .ok t) :
    t.duart = s.duart ∧ ∀ d r, busWrite8 a v (s.withChipReply d r) = .ok (t.withChipReply d r) := by
  cases hr : regionOf s.params a with
  | low =>
    cases ho : s.overlay with
    | false => rw [busWrite8_low hr ho] at h; cases h; exact ⟨rfl, fun d r => busWrite8_low hr ho⟩
    | true => rw [busWrite8_overlay (.inl hr) ho] at h; cases h
  | romWin =>
    cases ho : s.overlay with
    | false => rw [busWrite8_romWin hr ho] at h; cases h; exact ⟨rfl, fun d r => busWrite8_romWin hr ho⟩
    | true => rw [busWrite8_overlay (.inr hr) ho] at h; cases h
  | void => rw [busWrite8_void hr] at h; cases h; exact ⟨rfl, fun d r => busWrite8_void hr⟩
  | io =>
    rw [busWrite8_io hr, ioWrite_of_dead dead] at h
    cases h
    refine ⟨rfl, fun d r => (busWrite8_io (s := s.withChipReply d r) hr).trans ?_⟩
    rw [ioWrite_of_dead (s := s.withChipReply d r) dead]

end

/-! ## The rows between which a host step falls -/

theorem exec_busRead8_next {addr : CpuAddr} {b : Byte} {s t : State} (h : exec (.busRead8 addr) s = .next t)
    (hb : t.reply = .byte b) :
    ∃ u, busRead8 (addr.setWidth 24) s = .ok (b, u) ∧ t = u.withReply (.byte b) := by
  obtain ⟨x, hx, rfl⟩ := answerRead_next h
  cases hb
  exact ⟨x.2, hx, rfl⟩

theorem exec_busWrite8_next {addr : CpuAddr} {b : Byte} {s t : State} (h : exec (.busWrite8 addr b) s = .next t) :
    ∃ u, busWrite8 (addr.setWidth 24) b s = .ok u ∧ t = u.withReply .nothing := answerWrite_next h

theorem exec_busRead16_of_bytes {addr : CpuAddr} {hi lo : Byte} {s s1 s2 : State}
    (h1 : busRead8 (addr.setWidth 24) s = .ok (hi, s1))
    (h2 : busRead8 (nextAddr (addr.setWidth 24)) s1 = .ok (lo, s2)) :
    exec (.busRead16 addr) s = .next (s2.withReply (.word (hi ++ lo))) := by
  rw [exec_busRead16, busRead16_of_bytes h1 h2, answerRead_ok]

theorem exec_busWrite16_of_bytes {addr : CpuAddr} {hi lo : Byte} {s s1 s2 : State}
    (h1 : busWrite8 (addr.setWidth 24) hi s = .ok s1)
    (h2 : busWrite8 (nextAddr (addr.setWidth 24)) lo s1 = .ok s2) :
    exec (.busWrite16 addr (hi ++ lo)) s = .next (s2.withReply .nothing) := by
  have high : (hi ++ lo).extractLsb' 8 8 = hi := BitVec.extractLsb'_append_eq_left
  have low : (hi ++ lo).setWidth 8 = lo := BitVec.setWidth_append_eq_right
  rw [exec_busWrite16, busWrite16_of_bytes (high.symm ▸ h1), low, h2, answerWrite_ok]

/-! ## The obligation -/

section

variable {s s1 s2 s3 : State} {addr addr' : CpuAddr} {h : Instr} {hi lo : Byte} (hh : fallsBetweenHalves h)
  (hnext : addr'.toNat = (addr.toNat + 1) % 0x1000000)
include hh hnext

/-- A word read: the host step comes first where the high half reaches no register, and last where the low half
reaches none. -/
theorem hostStep_between_reads (first : exec (.busRead8 addr) s = .next s1) (hhi : s1.reply = .byte hi)
    (between : exec h s1 = .next s2) (second : exec (.busRead8 addr') s2 = .next s3) (hlo : s3.reply = .byte lo) :
    (∃ u, exec h s = .next u ∧ exec (.busRead16 addr) u = .next (s3.withReply (.word (hi ++ lo)))) ∨
      ∃ u, exec (.busRead16 addr) s = .next u ∧ u.reply = .word (hi ++ lo) ∧
        exec h u = .next (s3.withReply .nothing) := by
  obtain ⟨f, host⟩ := exec_of_fallsBetweenHalves hh
  obtain ⟨x, hx, rfl⟩ := exec_busRead8_next first hhi
  rw [host, State.withReply_duart, State.withReply_withChipReply] at between
  cases between
  obtain ⟨y, hy, rfl⟩ := exec_busRead8_next second hlo
  rw [setWidth_eq_nextAddr hnext] at hy
  simp only [State.withReply_withReply]
  rcases liveReg_none_or_next s.params (addr.setWidth 24) with dead | dead
  · left
    obtain ⟨unchanged, any⟩ := busRead8_of_dead dead hx
    obtain rfl : x = s := unchanged
    exact ⟨_, host _, exec_busRead16_of_bytes (any _ _) hy⟩
  · right
    have sameParams : (x.withChipReply (f x.duart) .nothing).params = s.params := (busRead8_moves hx).params
    obtain ⟨unchanged, any⟩ := busRead8_of_dead (sameParams ▸ dead) hy
    obtain rfl : y = x.withChipReply (f x.duart) .nothing := unchanged
    have low := any x.duart x.reply
    rw [State.withChipReply_withChipReply, State.withChipReply_self] at low
    refine ⟨_, exec_busRead16_of_bytes hx low, rfl, ?_⟩
    rw [host, State.withReply_duart, State.withReply_withChipReply, State.withChipReply_withReply]

/-- A word write, likewise. -/
theorem hostStep_between_writes (first : exec (.busWrite8 addr hi) s = .next s1)
    (between : exec h s1 = .next s2) (second : exec (.busWrite8 addr' lo) s2 = .next s3) :
    (∃ u, exec h s = .next u ∧ exec (.busWrite16 addr (hi ++ lo)) u = .next s3) ∨
      ∃ u, exec (.busWrite16 addr (hi ++ lo)) s = .next u ∧ exec h u = .next s3 := by
  obtain ⟨f, host⟩ := exec_of_fallsBetweenHalves hh
  obtain ⟨x, hx, rfl⟩ := exec_busWrite8_next first
  rw [host, State.withReply_duart, State.withReply_withChipReply] at between
  cases between
  obtain ⟨y, hy, rfl⟩ := exec_busWrite8_next second
  rw [setWidth_eq_nextAddr hnext] at hy
  rcases liveReg_none_or_next s.params (addr.setWidth 24) with dead | dead
  · left
    obtain ⟨sameChip, any⟩ := busWrite8_of_dead dead hx
    rw [sameChip] at hy
    exact ⟨_, host _, exec_busWrite16_of_bytes (any _ _) hy⟩
  · right
    have sameParams : (x.withChipReply (f x.duart) .nothing).params = s.params := (busWrite8_moves hx).params
    obtain ⟨sameChip, any⟩ := busWrite8_of_dead (sameParams ▸ dead) hy
    have low := any x.duart x.reply
    rw [State.withChipReply_withChipReply, State.withChipReply_self] at low
    refine ⟨_, exec_busWrite16_of_bytes hx low, ?_⟩
    have chip : y.duart = f x.duart := sameChip
    rw [host, State.withChipReply_withReply, State.withChipReply_duart, State.withChipReply_withChipReply, ← chip,
      State.withChipReply_duart_self]

end

/-- Settles O58: one of the two halves reaches no register, and the host step commutes with that half. -/
theorem receiveBetweenTheHalvesIsBeforeOrAfter : Obligations.ReceiveBetweenTheHalvesIsBeforeOrAfter :=
  fun _ _ _ _ _ _ _ _ _ hh hnext => ⟨hostStep_between_reads hh hnext, hostStep_between_writes hh hnext⟩

end Sys2Proof.Machine
end

section
/-! PROOFS. The frame of a transaction (30_encoding.md R100, R125, R127). Every reader of the decoder inverts the bytes
the encoder writes: each is stated once as an `↔` between "reads this and leaves `rest`" and "the bytes are these, with
`rest` after them", and the decoder is assembled from them. -/

namespace Sys2Proof

/-! ## The operands -/

theorem levelBytes_levelOf (b0 b1 b2 b3 : Byte) : levelBytes (levelOf b0 b1 b2 b3) = [b0, b1, b2, b3] := by
  rw [levelBytes, levelOf, BitVec.ofInt_toInt, split4_join4]

theorem levelFits_levelOf (b0 b1 b2 b3 : Byte) : levelFits (levelOf b0 b1 b2 b3) = true := levelFits_toInt _

theorem sourceOf_eq_ok_iff {kind n : Byte} {src : SourceId} :
    sourceOf kind n = .ok src ↔ sourceBytes src = [kind, n] := by
  constructor
  · intro h
    unfold sourceOf at h
    split_ifs at h with isDuart isZero isExtra
    · cases h; rw [isDuart, isZero]; rfl
    · cases h; rw [isExtra]; rfl
  · intro h
    cases src with
    | duart => cases h; rfl
    | extra k => cases h; rfl

theorem chanOf_eq_ok_iff {b : Byte} {c : ChanId} : chanOf b = .ok c ↔ chanByte c = b := by
  constructor
  · intro h
    unfold chanOf at h
    split_ifs at h with isA isB
    · cases h; exact isA.symm
    · cases h; exact isB.symm
  · rintro rfl
    cases c <;> rfl

/-! ## The readers of operands -/

section

variable {l rest : List Byte} {i : Instr}

theorem withAddr_eq_ok_iff {k : CpuAddr → Instr} :
    withAddr k l = .ok (i, rest) ↔ ∃ a, k a = i ∧ l = split4 a ++ rest := by
  constructor
  · intro h
    unfold withAddr at h
    split at h
    · cases h; exact ⟨_, rfl, by rw [split4_join4]; rfl⟩
    · cases h
  · rintro ⟨a, rfl, rfl⟩
    simp [split4, withAddr, join4_split4]

theorem withAddrByte_eq_ok_iff {k : CpuAddr → Byte → Instr} :
    withAddrByte k l = .ok (i, rest) ↔ ∃ a v, k a v = i ∧ l = split4 a ++ v :: rest := by
  constructor
  · intro h
    unfold withAddrByte at h
    split at h
    · cases h; exact ⟨_, _, rfl, by rw [split4_join4]; rfl⟩
    · cases h
  · rintro ⟨a, v, rfl, rfl⟩
    simp [split4, withAddrByte, join4_split4]

theorem withAddrHalf_eq_ok_iff {k : CpuAddr → Half → Instr} :
    withAddrHalf k l = .ok (i, rest) ↔ ∃ a v, k a v = i ∧ l = split4 a ++ byteOf v 0 :: byteOf v 1 :: rest := by
  constructor
  · intro h
    unfold withAddrHalf at h
    split at h
    · next v0 v1 _ =>
      obtain ⟨low, high⟩ := byteOf_join2 v0 v1
      cases h
      exact ⟨_, _, rfl, by rw [split4_join4, low, high]; rfl⟩
    · cases h
  · rintro ⟨a, v, rfl, rfl⟩
    simp [split4, withAddrHalf, join4_split4, join2_byteOf]

theorem withAckLevel_eq_ok_iff {k : BitVec 3 → Instr} :
    withAckLevel k l = .ok (i, rest) ↔ ∃ level : BitVec 3, k level = i ∧ l = level.setWidth 8 :: rest := by
  constructor
  · intro h
    unfold withAckLevel at h
    split at h
    · next b _ =>
      split at h
      · cases h
        exact ⟨_, rfl, by congr 1; bv_omega⟩
      · cases h
    · cases h
  · rintro ⟨level, rfl, rfl⟩
    have small : (level.setWidth 8).toNat < 8 := by bv_omega
    simp only [withAckLevel, if_pos small]
    simp

theorem withLevel_eq_ok_iff {k : Int → Instr} :
    withLevel k l = .ok (i, rest) ↔ ∃ level, levelFits level = true ∧ k level = i ∧ l = levelBytes level ++ rest := by
  constructor
  · intro h
    unfold withLevel at h
    split at h
    · cases h; exact ⟨_, levelFits_levelOf _ _ _ _, rfl, by rw [levelBytes_levelOf]; rfl⟩
    · cases h
  · rintro ⟨level, fits, rfl, rfl⟩
    simp [levelBytes, split4, withLevel, levelOf, join4_split4, toInt_ofInt_of_levelFits fits]

theorem withSource_eq_ok_iff {k : SourceId → Instr} :
    withSource k l = .ok (i, rest) ↔ ∃ src, k src = i ∧ l = sourceBytes src ++ rest := by
  constructor
  · intro h
    unfold withSource at h
    split at h
    · split at h
      · next hs => cases h; exact ⟨_, rfl, by rw [sourceOf_eq_ok_iff.1 hs]; rfl⟩
      · cases h
    · cases h
  · rintro ⟨src, rfl, rfl⟩
    cases src <;> rfl

theorem withSourceLevel_eq_ok_iff {k : SourceId → Int → Instr} :
    withSourceLevel k l = .ok (i, rest) ↔
      ∃ src level, levelFits level = true ∧ k src level = i ∧ l = sourceBytes src ++ levelBytes level ++ rest := by
  constructor
  · intro h
    unfold withSourceLevel at h
    split at h
    · split at h
      · next hs =>
        cases h
        exact ⟨_, _, levelFits_levelOf _ _ _ _, rfl, by rw [sourceOf_eq_ok_iff.1 hs, levelBytes_levelOf]; rfl⟩
      · cases h
    · cases h
  · rintro ⟨src, level, fits, rfl, rfl⟩
    cases src <;>
      simp [sourceBytes, levelBytes, split4, withSourceLevel, sourceOf, levelOf, join4_split4,
        toInt_ofInt_of_levelFits fits]

theorem withChanByte_eq_ok_iff {k : ChanId → Byte → Instr} :
    withChanByte k l = .ok (i, rest) ↔ ∃ c b, k c b = i ∧ l = chanByte c :: b :: rest := by
  constructor
  · intro h
    unfold withChanByte at h
    split at h
    · split at h
      · next hc => cases h; exact ⟨_, _, rfl, by rw [chanOf_eq_ok_iff.1 hc]⟩
      · cases h
    · cases h
  · rintro ⟨c, b, rfl, rfl⟩
    cases c <;> rfl

theorem withByte_eq_ok_iff {k : Byte → Instr} : withByte k l = .ok (i, rest) ↔ ∃ v, k v = i ∧ l = v :: rest := by
  cases l <;> simp [withByte, eq_comm]

end

/-! ## The access codes (R100, R102, R103) -/

theorem encode_readInstr (r : BitVec 4) : encode (readInstr r) = [r.setWidth 8] := by
  revert r; decide

theorem encode_writeInstr (r : BitVec 4) (v : Byte) : encode (writeInstr r v) = [0x10 ||| r.setWidth 8, v] := by
  obtain ⟨n, hn, rfl⟩ : ∃ n < 16, r = BitVec.ofNat 4 n := ⟨r.toNat, r.isLt, by simp⟩
  interval_cases n <;> rfl

theorem wf_readInstr (r : BitVec 4) : (readInstr r).wf = true := by
  revert r; decide

theorem wf_writeInstr (r : BitVec 4) (v : Byte) : (writeInstr r v).wf = true := by
  unfold writeInstr
  split <;> rfl

/-- A byte below 0x20 is an access code: bit 4 the direction, the low four bits the register. -/
theorem eq_accessCode {b : Byte} (h : b.toNat < 0x20) :
    b = if b.getLsbD 4 then 0x10 ||| (b.setWidth 4).setWidth 8 else (b.setWidth 4).setWidth 8 := by
  revert b; decide

theorem decodeAccess_sound {code : Byte} (hc : code.toNat < 0x20) {l rest : List Byte} {i : Instr}
    (h : decodeAccess code l = .ok (i, rest)) : i.wf = true ∧ code :: l = encode i ++ rest := by
  have access := eq_accessCode hc
  unfold decodeAccess at h
  split at h
  · next write =>
    rw [if_pos write] at access
    split at h
    · cases h; exact ⟨wf_writeInstr _ _, by rw [encode_writeInstr, ← access]; rfl⟩
    · cases h
  · next read =>
    rw [if_neg read] at access
    cases h; exact ⟨wf_readInstr _, by rw [encode_readInstr, ← access]; rfl⟩

/-! ## The wake command (R127, R247) -/

theorem wakeByte_eq (lo : BitVec 4) : 0xD#4 ++ lo = 0xD0 ||| lo.setWidth 8 := by
  revert lo; decide

theorem wakeByte_setWidth {data : Byte} (h : data.toNat / 16 = 0xD) : 0xD#4 ++ data.setWidth 4 = data := by
  revert data; decide

theorem decodeHead_wakeByte (lo : BitVec 4) (l : List Byte) :
    decodeHead ((0xD#4 ++ lo) :: l) = decodeWake (0xD#4 ++ lo) l := by
  have notAccess : ¬(0xD#4 ++ lo).toNat < 0x20 := by revert lo; decide
  have isWake : (0xD#4 ++ lo).toNat / 16 = 0xD := by revert lo; decide
  exact (if_neg notAccess).trans (if_pos isWake)

theorem decodeWake_sound {data : Byte} (hd : data.toNat / 16 = 0xD) {l rest : List Byte} {i : Instr}
    (h : decodeWake data l = .ok (i, rest)) : i.wf = true ∧ data :: l = encode i ++ rest := by
  unfold decodeWake at h
  split at h
  · split_ifs at h with ha hb
    · cases h; exact ⟨rfl, by rw [encode, wakeByte_setWidth hd, ha]; rfl⟩
    · cases h; exact ⟨rfl, by rw [encode, wakeByte_setWidth hd, hb]; rfl⟩
  · cases h

theorem decodeHead_encode_wake (c : ChanId) (lo : BitVec 4) (rest : List Byte) :
    decodeHead (encode (.duartWWake c lo) ++ rest) = .ok (.duartWWake c lo, rest) := by
  have low : (0xD#4 ++ lo).setWidth 4 = lo := BitVec.setWidth_append_eq_right
  cases c <;> exact (decodeHead_wakeByte lo _).trans (by simp [decodeWake, low])

/-! ## The calls -/

/-- One case per number a call has: the reader of its operands says what the bytes after the number are. -/
theorem decodeCall_sound {tag : Byte} {l rest : List Byte} {i : Instr}
    (h : decodeCall tag l = .ok (i, rest)) : i.wf = true ∧ tag :: l = encode i ++ rest := by
  have number {n : Nat} (t : tag.toNat = n) : tag = BitVec.ofNat 8 n := by
    rw [← t, BitVec.ofNat_toNat, BitVec.setWidth_eq]
  unfold decodeCall at h
  split at h
  · next t =>
    obtain ⟨a, rfl, rfl⟩ := withAddr_eq_ok_iff.1 h
    cases number t; exact ⟨rfl, rfl⟩
  · next t =>
    obtain ⟨a, v, rfl, rfl⟩ := withAddrByte_eq_ok_iff.1 h
    cases number t; exact ⟨rfl, rfl⟩
  · next t =>
    obtain ⟨a, rfl, rfl⟩ := withAddr_eq_ok_iff.1 h
    cases number t; exact ⟨rfl, rfl⟩
  · next t =>
    obtain ⟨a, v, rfl, rfl⟩ := withAddrHalf_eq_ok_iff.1 h
    cases number t; exact ⟨rfl, rfl⟩
  · next t =>
    obtain ⟨level, rfl, rfl⟩ := withAckLevel_eq_ok_iff.1 h
    cases number t; exact ⟨rfl, rfl⟩
  · next t =>
    obtain ⟨src, level, fits, rfl, rfl⟩ := withSourceLevel_eq_ok_iff.1 h
    cases number t; exact ⟨fits, rfl⟩
  · next t =>
    obtain ⟨level, fits, rfl, rfl⟩ := withLevel_eq_ok_iff.1 h
    cases number t; exact ⟨fits, rfl⟩
  · next t =>
    obtain ⟨src, rfl, rfl⟩ := withSource_eq_ok_iff.1 h
    cases number t; exact ⟨rfl, rfl⟩
  · next t => cases number t; cases h; exact ⟨rfl, rfl⟩
  · next t =>
    obtain ⟨level, fits, rfl, rfl⟩ := withLevel_eq_ok_iff.1 h
    cases number t; exact ⟨fits, rfl⟩
  · next t =>
    obtain ⟨src, rfl, rfl⟩ := withSource_eq_ok_iff.1 h
    cases number t; exact ⟨rfl, rfl⟩
  · next t =>
    obtain ⟨level, fits, rfl, rfl⟩ := withLevel_eq_ok_iff.1 h
    cases number t; exact ⟨fits, rfl⟩
  · next t =>
    obtain ⟨src, rfl, rfl⟩ := withSource_eq_ok_iff.1 h
    cases number t; exact ⟨rfl, rfl⟩
  · next t =>
    obtain ⟨level, fits, rfl, rfl⟩ := withLevel_eq_ok_iff.1 h
    cases number t; exact ⟨fits, rfl⟩
  · next t => cases number t; cases h; exact ⟨rfl, rfl⟩
  · next t =>
    obtain ⟨c, b, rfl, rfl⟩ := withChanByte_eq_ok_iff.1 h
    cases number t; exact ⟨rfl, rfl⟩
  · next t =>
    obtain ⟨v, rfl, rfl⟩ := withByte_eq_ok_iff.1 h
    cases number t; exact ⟨rfl, rfl⟩
  · next t => cases number t; cases h; exact ⟨rfl, rfl⟩
  · cases h

/-! ## The decoder -/

/-- The decoder takes exactly the encoder's bytes from the head of a list, whatever follows them. -/
theorem decodeHead_encode_append {i : Instr} (h : i.wf = true) (rest : List Byte) :
    decodeHead (encode i ++ rest) = .ok (i, rest) := by
  cases i with
  | duartRMra | duartRSra | duartRMisr | duartRRhra | duartRIpcr | duartRIsr | duartRCtu | duartRCtl
  | duartRMrb | duartRSrb | duartRNoneA | duartRRhrb | duartRIvr | duartRIp | duartRStart | duartRStop => rfl
  | duartWMra v | duartWCsra v | duartWCra v | duartWThra v | duartWAcr v | duartWImr v | duartWCtu v
  | duartWCtl v | duartWMrb v | duartWCsrb v | duartWCrb v | duartWThrb v | duartWIvr v | duartWOpcr v
  | duartWSopr v | duartWRopr v => rfl
  | duartWWake c lo => exact decodeHead_encode_wake c lo rest
  | busRead8 a => exact withAddr_eq_ok_iff.2 ⟨a, rfl, rfl⟩
  | busWrite8 a v => exact withAddrByte_eq_ok_iff.2 ⟨a, v, rfl, rfl⟩
  | busRead16 a => exact withAddr_eq_ok_iff.2 ⟨a, rfl, rfl⟩
  | busWrite16 a v => exact withAddrHalf_eq_ok_iff.2 ⟨a, v, rfl, rfl⟩
  | busIackVector level => exact withAckLevel_eq_ok_iff.2 ⟨level, rfl, rfl⟩
  | icSourceAdd src level => exact withSourceLevel_eq_ok_iff.2 ⟨src, level, h, rfl, rfl⟩
  | icSourceRemoveLevel level => exact withLevel_eq_ok_iff.2 ⟨level, h, rfl, rfl⟩
  | icSourceRemoveSrc src => exact withSource_eq_ok_iff.2 ⟨src, rfl, rfl⟩
  | icPoll => rfl
  | icSourceEnableLevel level => exact withLevel_eq_ok_iff.2 ⟨level, h, rfl, rfl⟩
  | icSourceEnableSrc src => exact withSource_eq_ok_iff.2 ⟨src, rfl, rfl⟩
  | icSourceDisableLevel level => exact withLevel_eq_ok_iff.2 ⟨level, h, rfl, rfl⟩
  | icSourceDisableSrc src => exact withSource_eq_ok_iff.2 ⟨src, rfl, rfl⟩
  | icReadVector level => exact withLevel_eq_ok_iff.2 ⟨level, h, rfl, rfl⟩
  | icReset => rfl
  | hostReceive c b => exact withChanByte_eq_ok_iff.2 ⟨c, b, rfl, rfl⟩
  | hostSetInputPort v => exact withByte_eq_ok_iff.2 ⟨v, rfl, rfl⟩
  | boardReset => rfl

/-- The decoder drops no byte: what it consumed is the encoding of what it answers. -/
theorem decodeHead_sound {f rest : List Byte} {i : Instr} (h : decodeHead f = .ok (i, rest)) :
    i.wf = true ∧ f = encode i ++ rest := by
  unfold decodeHead at h
  split at h
  · cases h
  · split_ifs at h with access wake
    · exact decodeAccess_sound access h
    · exact decodeWake_sound wake h
    · exact decodeCall_sound h

theorem decodeHead_eq_ok_iff {f rest : List Byte} {i : Instr} :
    decodeHead f = .ok (i, rest) ↔ i.wf = true ∧ f = encode i ++ rest :=
  ⟨decodeHead_sound, fun ⟨hw, hf⟩ => hf ▸ decodeHead_encode_append hw rest⟩

theorem decode_eq_ok_iff_decodeHead {f : Frame} {i : Instr} :
    decode f = .ok i ↔ ∃ rest, decodeHead f = .ok (i, rest) ∧ ∀ b ∈ rest, b = 0 := by
  unfold decode
  rcases decodeHead f with e | ⟨j, rest⟩
  · simp
  · simp only [List.all_eq_true, decide_eq_true_eq]
    split_ifs with zeros <;> simpa using fun _ => zeros

/-- Which frames present `i`: both directions of the round trip at once. -/
theorem decode_eq_ok_iff {f : Frame} {i : Instr} :
    decode f = .ok i ↔ i.wf = true ∧ ∃ n, f = encode i ++ List.replicate n 0 := by
  simp only [decode_eq_ok_iff_decodeHead, decodeHead_eq_ok_iff]
  constructor
  · rintro ⟨rest, ⟨hw, hf⟩, zeros⟩
    exact ⟨hw, rest.length, (List.eq_replicate_of_mem zeros) ▸ hf⟩
  · rintro ⟨hw, n, hf⟩
    exact ⟨_, ⟨hw, hf⟩, fun _ => List.eq_of_mem_replicate⟩

theorem decode_encode {i : Instr} (h : i.wf = true) : decode (encode i) = .ok i :=
  decode_eq_ok_iff.2 ⟨h, 0, (List.append_nil _).symm⟩

/-- Settles O3: the encoding with no zero byte after it is among the frames that present the transaction. -/
theorem decodeOfEncodeIsTheTransaction : Obligations.DecodeOfEncodeIsTheTransaction :=
  fun _ h => decode_encode h

/-- Settles O4: no other frame presents it than its encoding and zero bytes. -/
theorem decodedFrameIsItsEncodingAndZeros : Obligations.DecodedFrameIsItsEncodingAndZeros :=
  fun _ _ h => decode_eq_ok_iff.1 h

/-- Settles O2: the one-register frames are the encodings of the two register maps, so they decode by the round trip;
the six words are evaluated. -/
theorem accessCodesNameTheRegisters : Obligations.AccessCodesNameTheRegisters := by
  refine ⟨fun r v => ⟨?_, ?_⟩, rfl, rfl, rfl, rfl, rfl, rfl⟩
  · rw [← encode_readInstr, decode_encode (wf_readInstr r)]
  · rw [← encode_writeInstr, decode_encode (wf_writeInstr r v)]

end Sys2Proof

/-! ## The wake row and the command write (R127, R232, R247) -/

namespace Sys2Proof.Machine

theorem exec_commandOf (c : ChanId) (v : Byte) (s : State) :
    exec (commandOf c v) s = runWrite (commandReg c) v (writeCommand c v) s := by
  cases c <;> rfl

theorem exec_duartWWake (c : ChanId) (lo : BitVec 4) (s : State) :
    exec (.duartWWake c lo) s = runWrite (commandReg c) (0xD#4 ++ lo) (writeCommand c (0xD#4 ++ lo)) s := rfl

/-- Settles O24: both rows write the byte to the command register through the standby gate. -/
theorem wakeIsTheCommandWriteOfItsByte : Obligations.WakeIsTheCommandWriteOfItsByte := by
  intro s c lo
  rw [exec_duartWWake, exec_commandOf, wakeByte_eq]

end Sys2Proof.Machine
end

section
/-! PROOFS. The controller's slots: what a key finds (R148), what the configuration calls make of it (R141, R142, R144,
R145), and what the vector read answers at a level (R146, R179). -/

namespace Sys2Proof.Machine

/-! ## The levels in ascending order (R34) -/

theorem mem_slotOrder (i : Fin 7) : i ∈ slotOrder := by
  revert i
  decide

theorem slotOrder_pairwise : slotOrder.Pairwise (· < ·) := by decide

/-- What stands before a slot in the scan has a lower level. -/
theorem slotOrder_split (i : Fin 7) : ∃ before later, slotOrder = before ++ i :: later ∧ ∀ j ∈ before, j < i := by
  obtain ⟨before, later, split⟩ := List.append_of_mem (mem_slotOrder i)
  have ascending := slotOrder_pairwise
  rw [split, List.pairwise_append] at ascending
  obtain ⟨-, -, lower⟩ := ascending
  exact ⟨before, later, split, fun j hj => lower j hj i List.mem_cons_self⟩

/-! ## What a key finds (R148) -/

theorem levelIndex_of_slot {level : Int} {i : Fin 7} (h : level = i.val + 1) : levelIndex level = some i :=
  (levelIndex_eq_some_iff level i).mpr h.symm

theorem levelIndex_of_out {level : Int} (h : level < 1 ∨ 7 < level) : levelIndex level = none :=
  dif_neg (by omega)

section

variable {slots : Vector (Option Slot) 7} {level : Int} {i : Fin 7} {src : SourceId}

theorem findLevel_of_out (h : level < 1 ∨ 7 < level) : findLevel slots level = none := by
  simp [findLevel, levelIndex_of_out h]

theorem findLevel_of_empty (hl : level = i.val + 1) (h : slots.get i = none) : findLevel slots level = none := by
  simp [findLevel, levelIndex_of_slot hl, h]

theorem findLevel_of_bound {sl : Slot} (hl : level = i.val + 1) (h : slots.get i = some sl) :
    findLevel slots level = some i := by
  simp [findLevel, levelIndex_of_slot hl, h]

theorem bindsSource_iff {slot : Option Slot} : bindsSource src slot = true ↔ ∃ en, slot = some ⟨src, en⟩ := by
  rcases slot with - | ⟨src', en⟩ <;> simp [bindsSource]

theorem findSource_of_unbound (h : ∀ (i : Fin 7) (sl : Slot), slots.get i = some sl → sl.src ≠ src) :
    findSource slots src = none := by
  refine List.find?_eq_none.mpr fun i _ binds => ?_
  obtain ⟨en, hi⟩ := bindsSource_iff.mp binds
  exact h i _ hi rfl

/-- The scan ascends, so it finds the lowest level that binds the source. -/
theorem findSource_of_lowest {en : Bool} (hi : slots.get i = some ⟨src, en⟩)
    (lowest : ∀ (j : Fin 7) (sl : Slot), j < i → slots.get j = some sl → sl.src ≠ src) :
    findSource slots src = some i := by
  obtain ⟨before, later, split, lower⟩ := slotOrder_split i
  refine List.find?_eq_some_iff_append.mpr ⟨bindsSource_iff.mpr ⟨en, hi⟩, before, later, split, fun j hj => ?_⟩
  rw [Bool.not_eq_true', ← Bool.not_eq_true]
  intro binds
  obtain ⟨en', hj'⟩ := bindsSource_iff.mp binds
  exact lowest j _ (lower j hj) hj' rfl

end

/-! ## The configuration calls once the key is looked up -/

section

variable {s : State} {level : Int} {i : Fin 7} {sl : Slot} {src : SourceId} {en : Bool}

theorem addSource_of_out (h : level < 1 ∨ 7 < level) : addSource src level s = s.withReply (.bool false) := by
  simp [addSource, levelIndex_of_out h, answerBool]

theorem addSource_of_occupied (hl : level = i.val + 1) (h : s.slots.get i ≠ none) :
    addSource src level s = s.withReply (.bool false) := by
  simp [addSource, levelIndex_of_slot hl, Option.isSome_iff_ne_none.mpr h, answerBool]

theorem addSource_of_free (hl : level = i.val + 1) (h : s.slots.get i = none) :
    addSource src level s =
      (s.withSlots (s.slots.set i.val (some ⟨src, true⟩) i.isLt)).withReply (.bool true) := by
  simp [addSource, levelIndex_of_slot hl, h, answerBool, putSlot]

theorem removeAt_none : removeAt none s = s.withReply (.bool false) := rfl

theorem removeAt_some : removeAt (some i) s =
    (s.withSlots (s.slots.set i.val none i.isLt)).withReply (.bool true) := rfl

theorem setEnabledAt_none : setEnabledAt none en s = s.withReply (.bool false) := rfl

theorem setEnabledAt_some (h : s.slots.get i = some sl) : setEnabledAt (some i) en s =
    (s.withSlots (s.slots.set i.val (some ⟨sl.src, en⟩) i.isLt)).withReply (.bool true) := by
  simp [setEnabledAt, h, answerBool, putSlot]

end

/-! ## The rows over them -/

theorem exec_icSourceAdd (src : SourceId) (level : Int) (s : State) :
    exec (.icSourceAdd src level) s = .next (addSource src level s) := rfl

theorem exec_icSourceRemoveLevel (level : Int) (s : State) :
    exec (.icSourceRemoveLevel level) s = .next (removeAt (findLevel s.slots level) s) := rfl

theorem exec_icSourceEnableLevel (level : Int) (s : State) :
    exec (.icSourceEnableLevel level) s = .next (setEnabledAt (findLevel s.slots level) true s) := rfl

theorem exec_icSourceDisableLevel (level : Int) (s : State) :
    exec (.icSourceDisableLevel level) s = .next (setEnabledAt (findLevel s.slots level) false s) := rfl

theorem exec_icSourceRemoveSrc (src : SourceId) (s : State) :
    exec (.icSourceRemoveSrc src) s = .next (removeAt (findSource s.slots src) s) := rfl

theorem exec_icSourceEnableSrc (src : SourceId) (s : State) :
    exec (.icSourceEnableSrc src) s = .next (setEnabledAt (findSource s.slots src) true s) := rfl

theorem exec_icSourceDisableSrc (src : SourceId) (s : State) :
    exec (.icSourceDisableSrc src) s = .next (setEnabledAt (findSource s.slots src) false s) := rfl

theorem exec_icReadVector (level : Int) (s : State) :
    exec (.icReadVector level) s = .next (answerByte (readVector level s)) := rfl

theorem exec_busIackVector (l : BitVec 3) (s : State) : exec (.busIackVector l) s =
    .next ((readVector l.toNat s).2.withReply (.word ((readVector l.toNat s).1.setWidth 16))) := rfl

/-- The three calls by level where the level finds no slot. -/
theorem levelCalls_of_notFound {s : State} {level : Int} (h : findLevel s.slots level = none) :
    exec (.icSourceRemoveLevel level) s = .next (s.withReply (.bool false)) ∧
      exec (.icSourceEnableLevel level) s = .next (s.withReply (.bool false)) ∧
      exec (.icSourceDisableLevel level) s = .next (s.withReply (.bool false)) := by
  simp only [exec_icSourceRemoveLevel, exec_icSourceEnableLevel, exec_icSourceDisableLevel, h, removeAt_none,
    setEnabledAt_none, and_self]

/-! ## The vector read (R146, R179) -/

section

variable {s t : State} {level : Int} {l : BitVec 3} {i : Fin 7} {v : Byte}

theorem readVector_of_out (h : level < 1 ∨ 7 < level) : readVector level s = (0x0F, s) := by
  simp [readVector, levelIndex_of_out h, Config.sentinelVector]

theorem readVector_of_notEnabled (hl : level = i.val + 1)
    (h : s.slots.get i = none ∨ ∃ src, s.slots.get i = some ⟨src, false⟩) : readVector level s = (0x0F, s) := by
  rcases h with h | ⟨src, h⟩ <;> simp [readVector, levelIndex_of_slot hl, h, Config.sentinelVector]

theorem readVector_of_enabled {src : SourceId} (hl : level = i.val + 1) (h : s.slots.get i = some ⟨src, true⟩) :
    readVector level s = sourceVector src s := by
  simp [readVector, levelIndex_of_slot hl, h]

theorem exec_icReadVector_of (h : readVector level s = (v, t)) :
    exec (.icReadVector level) s = .next (t.withReply (.byte v)) := by
  simp [exec_icReadVector, h, answerByte]

/-- The bus answers what the controller answers, zero-extended. -/
theorem exec_busIackVector_of (h : readVector l.toNat s = (v, t)) :
    exec (.busIackVector l) s = .next (t.withReply (.word (v.setWidth 16))) := by
  simp [exec_busIackVector, h]

/-- Both rows at the level that the bus presents. -/
theorem vectorReads_of (h : readVector l.toNat s = (v, t)) :
    exec (.icReadVector l.toNat) s = .next (t.withReply (.byte v)) ∧
      exec (.busIackVector l) s = .next (t.withReply (.word (v.setWidth 16))) :=
  ⟨exec_icReadVector_of h, exec_busIackVector_of h⟩

end

/-! ## The obligations -/

/-- Settles O37, by what `addSource` does at a level out of range, an occupied one and a free one. -/
theorem sourceAddBindsAFreeLevel : Obligations.SourceAddBindsAFreeLevel := by
  intro s src level
  simp only [exec_icSourceAdd]
  refine ⟨fun out => ?_, fun i hl => ⟨fun occupied => ?_, fun free => ?_⟩⟩
  · rw [addSource_of_out out]
  · rw [addSource_of_occupied hl occupied]
  · rw [addSource_of_free hl free]

/-- Settles O38: a level out of range or empty finds no slot, a bound one finds its own. -/
theorem levelKeysActOnTheirOwnSlot : Obligations.LevelKeysActOnTheirOwnSlot := by
  intro s level
  refine ⟨fun out => levelCalls_of_notFound (findLevel_of_out out), fun i hl =>
    ⟨fun empty => levelCalls_of_notFound (findLevel_of_empty hl empty), fun sl bound => ?_⟩⟩
  simp only [exec_icSourceRemoveLevel, exec_icSourceEnableLevel, exec_icSourceDisableLevel,
    findLevel_of_bound hl bound, removeAt_some, setEnabledAt_some bound, and_self]

/-- Settles O39: the source finds no slot where none binds it, and the lowest that does otherwise. -/
theorem sourceKeysActOnTheLowestBinding : Obligations.SourceKeysActOnTheLowestBinding := by
  intro s src
  simp only [exec_icSourceRemoveSrc, exec_icSourceEnableSrc, exec_icSourceDisableSrc]
  refine ⟨fun unbound => ?_, fun i en bound lowest => ?_⟩
  · simp only [findSource_of_unbound unbound, removeAt_none, setEnabledAt_none, and_self]
  · simp only [findSource_of_lowest bound lowest, removeAt_some, setEnabledAt_some bound, and_self]

/-- Settles O42: both rows answer what `readVector` does, and this is the sentinel or the enabled source's vector. -/
theorem vectorReadRoutesToTheBoundSource : Obligations.VectorReadRoutesToTheBoundSource := by
  intro s level l
  refine ⟨fun out => exec_icReadVector_of (readVector_of_out out), ?_, fun i hlevel hl => ?_⟩
  · rintro rfl
    exact exec_busIackVector_of (readVector_of_out (.inl (by decide)))
  · obtain rfl : level = l.toNat := by omega
    exact ⟨fun notEnabled => vectorReads_of (readVector_of_notEnabled hlevel notEnabled),
      fun duart => vectorReads_of (readVector_of_enabled hlevel duart),
      fun _ extra => vectorReads_of (readVector_of_enabled hlevel extra)⟩

end Sys2Proof.Machine
end

section
/-! PROOFS. The controller's reset (R147): one pass over the slots, said at once for the chip and for the record of
extra resets. -/

namespace Sys2Proof.Machine

/-- The chip after the reset of a controller that binds the DUART, or does not (R381). -/
def Duart.resetIf (d : Duart) (bound : Bool) : Duart := if bound then d.reset else d

@[simp] theorem Duart.resetIf_false (d : Duart) : d.resetIf false = d := rfl

@[simp] theorem Duart.resetIf_true (d : Duart) : d.resetIf true = d.reset := rfl

/-- A chip bound at two levels is reset twice, which is the same as once. -/
@[simp] theorem Duart.reset_resetIf (d : Duart) (bound : Bool) : d.reset.resetIf bound = d.reset := by
  cases bound <;> rfl

theorem Duart.reset_chan (d : Duart) (c : ChanId) : d.reset.chan c = Channel.initial := by
  cases c <;> rfl

theorem State.withResetTrace_withDuart (s : State) (trace : List Byte) (d : Duart) :
    (s.withResetTrace trace).withDuart d = (s.withDuart d).withResetTrace trace := rfl

/-- The machine after the reset of the sources bound at the given slots: the chip is reset if one of them binds it, and
the extra sources are recorded in their order. -/
theorem resetSlots_eq (order : List (Fin 7)) (s : State) : resetSlots order s =
    (s.withDuart (s.duart.resetIf (order.any fun i => bindsSource .duart (s.slots.get i)))).withResetTrace
      (s.resetTrace ++ order.filterMap fun i => extraIn (s.slots.get i)) := by
  induction order generalizing s with
  | nil => simp [resetSlots]
  | cons i rest ih =>
    rcases hi : s.slots.get i with - | ⟨- | k, en⟩
    case none => simp [resetSlots, hi, ih, bindsSource, extraIn]
    case some.duart => simp [resetSlots, resetSource, hi, ih, bindsSource, extraIn]
    case some.extra =>
      simp [resetSlots, resetSource, hi, ih, bindsSource, extraIn, State.withResetTrace_withDuart]

theorem duartBound_iff_any (slots : Vector (Option Slot) 7) :
    duartBound slots ↔ (slotOrder.any fun i => bindsSource .duart (slots.get i)) = true := by
  simp [duartBound, mem_slotOrder]

theorem exec_icReset (s : State) : exec .icReset s = .next ((controllerReset s).withReply .nothing) := rfl

/-- Settles O43: the chip is `resetIf` of whether a slot binds the DUART. -/
theorem controllerResetCascades : Obligations.ControllerResetCascades := by
  intro s
  refine ⟨_, by rw [exec_icReset, controllerReset, resetSlots_eq], fun unbound => ?_, fun bound => ?_⟩
  · rw [duartBound_iff_any, Bool.not_eq_true] at unbound
    rw [unbound, Duart.resetIf_false]
  · rw [(duartBound_iff_any _).mp bound, Duart.resetIf_true]
    exact ⟨rfl, rfl, rfl, rfl, rfl, rfl, rfl, rfl, s.duart.reset_chan, rfl, rfl⟩

end Sys2Proof.Machine
end

section
/-! PROOFS. The arbiter's poll (R143, R345). Its scan passes over the slots that are not polled, so it is one poll of
each enabled slot; the level it reports is that of the last to assert, which in an ascending scan is the highest. -/

namespace Sys2Proof.Machine

/-! ## One poll (R304, R343) -/

theorem pollSource_extra (k : Byte) (s : State) :
    pollSource (.extra k) s = (s.env.drawBool.1, s.withEnv s.env.drawBool.2) := rfl

theorem pollSource_duart_standby {s : State} (asleep : s.duart.standby = true) : pollSource .duart s = (false, s) :=
  if_pos asleep

theorem pollSource_duart_awake {s : State} (awake : s.duart.standby = false) :
    pollSource .duart s = (decide ((readMaskedIsr s).1 ≠ 0x00), (readMaskedIsr s).2) :=
  if_neg (Bool.eq_false_iff.mp awake)

theorem exec_duartRMisr_awake {s : State} (awake : s.duart.standby = false) :
    exec .duartRMisr s = .next ((readMaskedIsr s).2.withReply (.byte (readMaskedIsr s).1)) := by
  simp [exec, execDuartRMisr, runRead, gatedRead, awake, answerByte]

theorem readMaskedIsr_reply (s : State) : (readMaskedIsr s).2.reply = s.reply := rfl

/-- Outside standby a poll of the DUART asserts where a masked ISR read answers a byte that is not 0, and leaves what
that read leaves, but for the reply. -/
theorem pollSource_duart_of_maskedIsrRead {s t : State} {m : Byte} (awake : s.duart.standby = false)
    (read : exec .duartRMisr s = .next t) (answer : t.reply = .byte m) :
    pollSource .duart s = (decide (m ≠ 0), t.withReply s.reply) := by
  rw [exec_duartRMisr_awake awake] at read
  cases read
  cases answer
  rw [pollSource_duart_awake awake, State.withReply_withReply, ← readMaskedIsr_reply, State.withReply_self]

/-! ## What the polls can change -/

/-- `t` differs from `s` in the draws and the chip's timer alone. -/
def MovesTimerAndDraws (s t : State) : Prop :=
  ∃ (e : Env) (tm : Timer), t = (s.withEnv e).withDuart { s.duart with timer := tm }

theorem MovesTimerAndDraws.refl (s : State) : MovesTimerAndDraws s s := ⟨s.env, s.duart.timer, rfl⟩

theorem MovesTimerAndDraws.trans {s t u : State} (h : MovesTimerAndDraws s t) (k : MovesTimerAndDraws t u) :
    MovesTimerAndDraws s u := by
  obtain ⟨e, tm, rfl⟩ := h
  obtain ⟨e', tm', rfl⟩ := k
  exact ⟨e', tm', rfl⟩

theorem pollSource_movesTimerAndDraws (src : SourceId) (s : State) : MovesTimerAndDraws s (pollSource src s).2 := by
  cases src with
  | extra k => exact ⟨s.env.drawBool.2, s.duart.timer, rfl⟩
  | duart =>
    cases standby : s.duart.standby with
    | true => rw [pollSource_duart_standby standby]; exact .refl s
    | false => rw [pollSource_duart_awake standby]; exact ⟨s.env.drawNow.2, _, rfl⟩

theorem pollAt_of_bound {slots : Vector (Option Slot) 7} {i : Fin 7} {sl : Slot} (h : slots.get i = some sl)
    (s : State) : pollAt slots i s = pollSource sl.src s := by
  simp [pollAt, h]

theorem pollAt_movesTimerAndDraws (slots : Vector (Option Slot) 7) (i : Fin 7) (s : State) :
    MovesTimerAndDraws s (pollAt slots i s).2 := by
  cases h : slots.get i with
  | none => simpa [pollAt, h] using .refl s
  | some sl => rw [pollAt_of_bound h]; exact pollSource_movesTimerAndDraws sl.src s

theorem afterPolls_movesTimerAndDraws (slots : Vector (Option Slot) 7) (order : List (Fin 7)) (s : State) :
    MovesTimerAndDraws s (afterPolls slots order s) := by
  induction order generalizing s with
  | nil => exact .refl s
  | cons i rest ih => exact (pollAt_movesTimerAndDraws slots i s).trans (ih _)

/-! ## The slots polled -/

section

variable {slots : Vector (Option Slot) 7} {i : Fin 7} {rest order : List (Fin 7)}

theorem mem_enabledSlots : i ∈ enabledSlots slots order ↔ i ∈ order ∧ ∃ src, slots.get i = some ⟨src, true⟩ := by
  rw [enabledSlots, List.mem_filter]
  rcases slots.get i with - | ⟨src, en⟩ <;> simp

theorem enabledSlots_cons_of_enabled {src : SourceId} (h : slots.get i = some ⟨src, true⟩) :
    enabledSlots slots (i :: rest) = i :: enabledSlots slots rest := by
  simp [enabledSlots, h]

theorem enabledSlots_cons_of_not (h : ∀ src, slots.get i ≠ some ⟨src, true⟩) :
    enabledSlots slots (i :: rest) = enabledSlots slots rest := by
  rcases hi : slots.get i with - | ⟨src, - | -⟩
  case some.true => exact absurd hi (h src)
  all_goals simp [enabledSlots, hi]

end

/-- The level reported after one poll of each of the given slots, from a level already reported. -/
def levelAfterPolls (slots : Vector (Option Slot) 7) : List (Fin 7) → BitVec 3 → State → BitVec 3
  | [], l, _ => l
  | i :: rest, l, s =>
    levelAfterPolls slots rest (if (pollAt slots i s).1 then levelOfIndex i else l) (pollAt slots i s).2

theorem pollSlots_cons_of_enabled {s : State} {i : Fin 7} {src : SourceId} (h : s.slots.get i = some ⟨src, true⟩)
    (rest : List (Fin 7)) (l : BitVec 3) : pollSlots (i :: rest) l s =
      pollSlots rest (if (pollAt s.slots i s).1 then levelOfIndex i else l) (pollAt s.slots i s).2 := by
  simp [pollSlots, pollAt, h]

theorem pollSlots_cons_of_not {s : State} {i : Fin 7} (h : ∀ src, s.slots.get i ≠ some ⟨src, true⟩)
    (rest : List (Fin 7)) (l : BitVec 3) : pollSlots (i :: rest) l s = pollSlots rest l s := by
  rcases hi : s.slots.get i with - | ⟨src, - | -⟩
  case some.true => exact absurd hi (h src)
  all_goals simp [pollSlots, hi]

/-- The scan is one poll of each enabled slot: it passes over the others, and no poll changes the slots. -/
theorem pollSlots_eq (order : List (Fin 7)) (l : BitVec 3) (s : State) : pollSlots order l s =
    (levelAfterPolls s.slots (enabledSlots s.slots order) l s, afterPolls s.slots (enabledSlots s.slots order) s) := by
  induction order generalizing l s with
  | nil => rfl
  | cons i rest ih =>
    by_cases enabled : ∃ src, s.slots.get i = some ⟨src, true⟩
    · obtain ⟨src, h⟩ := enabled
      have sameSlots : (pollAt s.slots i s).2.slots = s.slots := (pollAt_moves s.slots i s).slots
      rw [pollSlots_cons_of_enabled h, ih, sameSlots, enabledSlots_cons_of_enabled h]
      rfl
    · have h := not_exists.mp enabled
      rw [pollSlots_cons_of_not h, ih, enabledSlots_cons_of_not h]

theorem exec_icPoll (s : State) : exec .icPoll s =
    .next (((pollInterrupt s).2.withIpl (pollInterrupt s).1).withReply (.level (pollInterrupt s).1)) := rfl

/-! ## The level reported -/

/-- In the scan of `order` from `s`, the source at slot `i` answers true in its turn. -/
def AssertsInTurn (slots : Vector (Option Slot) 7) (order : List (Fin 7)) (s : State) (i : Fin 7) : Prop :=
  ∃ before later, order = before ++ i :: later ∧ (pollAt slots i (afterPolls slots before s)).1 = true

section

variable {slots : Vector (Option Slot) 7} {order rest : List (Fin 7)} {s : State} {i j : Fin 7}

theorem AssertsInTurn.mem (h : AssertsInTurn slots order s i) : i ∈ order := by
  obtain ⟨before, later, rfl, -⟩ := h
  simp

theorem not_assertsInTurn_nil : ¬ AssertsInTurn slots [] s i := fun h => List.not_mem_nil h.mem

theorem assertsInTurn_cons : AssertsInTurn slots (j :: rest) s i ↔
    (i = j ∧ (pollAt slots j s).1 = true) ∨ AssertsInTurn slots rest (pollAt slots j s).2 i := by
  constructor
  · rintro ⟨- | ⟨k, before⟩, later, split, asserts⟩
    · cases split; exact .inl ⟨rfl, asserts⟩
    · cases split; exact .inr ⟨before, later, rfl, asserts⟩
  · rintro (⟨rfl, asserts⟩ | ⟨before, later, rfl, asserts⟩)
    · exact ⟨[], rest, rfl, asserts⟩
    · exact ⟨j :: before, later, rfl, asserts⟩

end

/-- In an ascending scan the level stands where no source asserts, and otherwise is that of the highest that does: the
last to assert. -/
theorem levelAfterPolls_cases (slots : Vector (Option Slot) 7) {order : List (Fin 7)}
    (ascending : order.Pairwise (· < ·)) (l : BitVec 3) (s : State) :
    (levelAfterPolls slots order l s = l ∧ ∀ i, ¬ AssertsInTurn slots order s i) ∨
      ∃ i, levelAfterPolls slots order l s = levelOfIndex i ∧ AssertsInTurn slots order s i ∧
        ∀ j, AssertsInTurn slots order s j → j ≤ i := by
  induction order generalizing l s with
  | nil => exact .inl ⟨rfl, fun _ => not_assertsInTurn_nil⟩
  | cons k rest ih =>
    obtain ⟨lower, ascending⟩ := List.pairwise_cons.mp ascending
    simp only [levelAfterPolls, assertsInTurn_cons]
    rcases ih ascending (if (pollAt slots k s).1 then levelOfIndex k else l) (pollAt slots k s).2 with
      ⟨level, silent⟩ | ⟨i, level, asserts, highest⟩
    · by_cases answer : (pollAt slots k s).1 = true
      · exact .inr ⟨k, level.trans (if_pos answer), .inl ⟨rfl, answer⟩, by simp [silent]⟩
      · exact .inl ⟨level.trans (if_neg answer), by simp [silent, answer]⟩
    · refine .inr ⟨i, level, .inr asserts, ?_⟩
      rintro j (⟨rfl, -⟩ | later)
      · exact (lower i asserts.mem).le
      · exact highest j later

theorem levelOfIndex_toNat (i : Fin 7) : (levelOfIndex i).toNat = i.val + 1 := by
  rw [levelOfIndex, BitVec.toNat_ofNat]
  omega

/-- Settles O40: the scan is one poll of each enabled slot, and its level that of the highest that asserts. -/
theorem pollReportsTheHighestAssertingLevel : Obligations.PollReportsTheHighestAssertingLevel := by
  refine ⟨?_, fun u => ⟨fun k => pollSource_extra k u, pollSource_duart_standby,
    fun awake _ _ => pollSource_duart_of_maskedIsrRead awake⟩⟩
  rintro s order rfl
  have ascending : (enabledSlots s.slots slotOrder).Pairwise (· < ·) := slotOrder_pairwise.filter _
  refine ⟨ascending, fun i => by simp [mem_enabledSlots, mem_slotOrder], afterPolls_movesTimerAndDraws _ _ s,
    levelAfterPolls s.slots (enabledSlots s.slots slotOrder) 0 s, by rw [exec_icPoll, pollInterrupt, pollSlots_eq], ?_⟩
  rcases levelAfterPolls_cases s.slots ascending 0 s with ⟨level, silent⟩ | ⟨i, level, asserts, highest⟩ <;> rw [level]
  · exact ⟨fun before i later split answer => absurd ⟨before, later, split, answer⟩ (silent i), .inl rfl⟩
  · simp only [levelOfIndex_toNat]
    refine ⟨fun before j later split answer => ?_, .inr ?_⟩
    · exact Nat.succ_le_succ (highest j ⟨before, later, split, answer⟩)
    · obtain ⟨before, later, split, answer⟩ := asserts
      exact ⟨before, i, later, split, answer, rfl⟩

end Sys2Proof.Machine
end

section
/-! PROOFS. The I/O window of the bus, and word accesses as two byte accesses. A live address is the access of its
register; and no access reads the reply of the one before it, so the byte halves of a word compose into the word. -/

namespace Sys2Proof.Machine

/-! ## The register rows (R102, R103) -/

theorem exists_lt_eq_ofNat (r : BitVec 4) : ∃ n < 16, r = BitVec.ofNat 4 n := ⟨r.toNat, r.isLt, by simp⟩

theorem exec_readInstr (r : BitVec 4) (s : State) : exec (readInstr r) s = .next (answerByte (duartRead r s)) := by
  obtain ⟨n, hn, rfl⟩ := exists_lt_eq_ofNat r
  interval_cases n <;> rfl

theorem exec_writeInstr (r : BitVec 4) (v : Byte) (s : State) :
    exec (writeInstr r v) s = .next (answerNothing (duartWrite r v s)) := by
  obtain ⟨n, hn, rfl⟩ := exists_lt_eq_ofNat r
  interval_cases n <;> rfl

/-! ## The register an odd address reaches (R75, R76) -/

section

variable {p : Params} {a : BusAddr} (odd : a.toNat % 2 = 1)
include odd

theorem getLsbD_zero_of_odd : a.getLsbD 0 = true := by rw [getLsbD_zero_eq, decide_eq_true_iff]; exact odd

theorem liveReg_of_odd_aliased (h : relAddr p a ≤ 15 ∨ p.ioRegAlias = .mask4) :
    liveReg p a = some (BitVec.ofNat 4 (relAddr p a % 16)) := by
  have masked : relAddr p a &&& 0xF = relAddr p a % 16 := Nat.and_two_pow_sub_one_eq_mod _ 4
  rw [liveReg, if_pos (getLsbD_zero_of_odd odd)]
  split
  · next low => rw [Nat.mod_eq_of_lt (Nat.lt_succ_of_le low)]
  · next beyond => rw [h.resolve_left beyond]; exact congrArg (fun n => some (BitVec.ofNat 4 n)) masked

theorem liveReg_of_odd_inert (beyond : 15 < relAddr p a) (inert : p.ioRegAlias = .inert) : liveReg p a = none := by
  rw [liveReg, if_pos (getLsbD_zero_of_odd odd), if_neg (Nat.not_le.mpr beyond), inert]

end

/-! ## Byte accesses of the I/O window (R172, R174) -/

section

variable {s : State} {a : BusAddr} {r : BitVec 4}

theorem busRead8_live (io : regionOf s.params a = .io) (live : liveReg s.params a = some r) :
    busRead8 a s = .ok (duartRead r s) := by
  rw [busRead8_io io, ioRead, live]

theorem busWrite8_live (io : regionOf s.params a = .io) (live : liveReg s.params a = some r) (v : Byte) :
    busWrite8 a v s = .ok (duartWrite r v s) := by
  rw [busWrite8_io io, ioWrite, live]

theorem busRead8_dead (io : regionOf s.params a = .io) (dead : liveReg s.params a = none) :
    busRead8 a s = .ok (0x00, s) := by
  rw [busRead8_io io, ioRead_of_dead dead]

theorem busWrite8_dead (io : regionOf s.params a = .io) (dead : liveReg s.params a = none) (v : Byte) :
    busWrite8 a v s = .ok s := by
  rw [busWrite8_io io, ioWrite_of_dead dead]

end

section

variable {s : State} {addr : CpuAddr} (io : regionOf s.params (addr.setWidth 24) = .io)
include io

theorem exec_bytes_live {r : BitVec 4} (live : liveReg s.params (addr.setWidth 24) = some r) (v : Byte) :
    exec (.busRead8 addr) s = exec (readInstr r) s ∧ exec (.busWrite8 addr v) s = exec (writeInstr r v) s := by
  rw [exec_busRead8, busRead8_live io live, exec_readInstr, exec_busWrite8, busWrite8_live io live, exec_writeInstr]
  exact ⟨rfl, rfl⟩

theorem exec_bytes_dead (dead : liveReg s.params (addr.setWidth 24) = none) (v : Byte) :
    exec (.busRead8 addr) s = .next (s.withReply (.byte 0x00)) ∧
      exec (.busWrite8 addr v) s = .next (s.withReply .nothing) := by
  rw [exec_busRead8, busRead8_dead io dead, exec_busWrite8, busWrite8_dead io dead]
  exact ⟨rfl, rfl⟩

end

/-! ## No access reads the reply of the one before it -/

section

variable (s : State) (x : Reply)

theorem readHolding_withReply (c : ChanId) :
    readHolding c (s.withReply x) = ((readHolding c s).1, (readHolding c s).2.withReply x) := by
  have sameChan : (s.withReply x).chan c = s.chan c := rfl
  unfold readHolding
  rw [sameChan]
  split <;> rfl

/-- The two receive holding registers look at their FIFO first; each other read is one update of the state. -/
theorem readReg_withReply (r : BitVec 4) :
    readReg r (s.withReply x) = ((readReg r s).1, (readReg r s).2.withReply x) := by
  unfold readReg
  split
  case h_4 => exact readHolding_withReply s x .a
  case h_12 => exact readHolding_withReply s x .b
  all_goals rfl

theorem duartRead_withReply (r : BitVec 4) :
    duartRead r (s.withReply x) = ((duartRead r s).1, (duartRead r s).2.withReply x) := by
  unfold duartRead gatedRead
  rw [State.withReply_duart, readReg_withReply]
  split <;> rfl

theorem ioRead_withReply (a : BusAddr) : ioRead a (s.withReply x) = ((ioRead a s).1, (ioRead a s).2.withReply x) := by
  unfold ioRead
  rw [State.withReply_params]
  split
  · exact duartRead_withReply s x _
  · rfl

theorem overlayRead_withReply (m : Memory) (size offset : Nat) : overlayRead m size offset (s.withReply x) =
    (overlayRead m size offset s).map fun y => (y.1, y.2.withReply x) := by
  unfold overlayRead
  split <;> rfl

theorem busRead8_withReply (a : BusAddr) :
    busRead8 a (s.withReply x) = (busRead8 a s).map fun y => (y.1, y.2.withReply x) := by
  unfold busRead8
  simp only [State.withReply_params, State.withReply_overlay, State.withReply_ram, State.withReply_rom,
    overlayRead_withReply, ioRead_withReply]
  split
  · split <;> rfl
  · split <;> rfl
  · rfl
  · rfl

theorem commandEffect_withReply (c : ChanId) (code : BitVec 4) :
    commandEffect c code (s.withReply x) = (commandEffect c code s).withReply x := by
  unfold commandEffect
  split
  case h_3 => rw [State.withReply_params]; split <;> rfl
  all_goals rfl

theorem writeCommand_withReply (c : ChanId) (v : Byte) :
    writeCommand c v (s.withReply x) = (writeCommand c v s).withReply x :=
  commandEffect_withReply (applyEnables c v s) x c (cmdCode v)

theorem writeHolding_withReply (c : ChanId) (v : Byte) :
    writeHolding c v (s.withReply x) = (writeHolding c v s).withReply x := by
  have sameChan : (s.withReply x).chan c = s.chan c := rfl
  unfold writeHolding
  rw [sameChan]
  split <;> rfl

/-- The command and transmit holding registers branch on the chip; each other write is one update of the state. -/
theorem writeReg_withReply (r : BitVec 4) (v : Byte) :
    writeReg r v (s.withReply x) = (writeReg r v s).withReply x := by
  unfold writeReg
  split
  case h_3 => exact writeCommand_withReply s x .a v
  case h_4 => exact writeHolding_withReply s x .a v
  case h_11 => exact writeCommand_withReply s x .b v
  case h_12 => exact writeHolding_withReply s x .b v
  all_goals rfl

theorem duartWrite_withReply (r : BitVec 4) (v : Byte) :
    duartWrite r v (s.withReply x) = (duartWrite r v s).withReply x := by
  unfold duartWrite gatedWrite
  rw [State.withReply_duart, writeReg_withReply]
  split
  · split <;> rfl
  · rfl

theorem ioWrite_withReply (a : BusAddr) (v : Byte) :
    ioWrite a v (s.withReply x) = (ioWrite a v s).withReply x := by
  unfold ioWrite
  rw [State.withReply_params]
  split
  · exact duartWrite_withReply s x _ v
  · rfl

theorem busWrite8_withReply (a : BusAddr) (v : Byte) :
    busWrite8 a v (s.withReply x) = (busWrite8 a v s).map fun t => t.withReply x := by
  unfold busWrite8
  rw [State.withReply_params, ioWrite_withReply]
  split
  · rw [apply_ite (Except.map _)]; rfl
  · rw [apply_ite (Except.map _)]; rfl
  · rfl
  · rfl

end

/-- A read after an access is the read of the machine with the reply it had before that access. -/
theorem busRead8_before_reply {a : BusAddr} {s t : State} {x : Reply} {b : Byte}
    (h : busRead8 a (s.withReply x) = .ok (b, t)) : busRead8 a s = .ok (b, t.withReply s.reply) := by
  have earlier := busRead8_withReply (s.withReply x) s.reply a
  rwa [h, State.withReply_withReply, State.withReply_self] at earlier

/-- A write after an access, likewise. -/
theorem busWrite8_before_reply {a : BusAddr} {s t : State} {x : Reply} {v : Byte}
    (h : busWrite8 a v (s.withReply x) = .ok t) : busWrite8 a v s = .ok (t.withReply s.reply) := by
  have earlier := busWrite8_withReply (s.withReply x) s.reply a v
  rwa [h, State.withReply_withReply, State.withReply_self] at earlier

/-! ## A word access in the I/O window (R176, R178) -/

section

variable {s : State} {r : BitVec 4} {addr : CpuAddr} (io : regionOf s.params (addr.setWidth 24) = .io)
  (ioNext : regionOf s.params (nextAddr (addr.setWidth 24)) = .io)
include io ioNext

theorem exec_words_low_lane (dead : liveReg s.params (addr.setWidth 24) = none)
    (live : liveReg s.params (nextAddr (addr.setWidth 24)) = some r) (v : Half) :
    exec (.busRead16 addr) s = .next ((duartRead r s).2.withReply (.word (0#8 ++ (duartRead r s).1))) ∧
      exec (.busWrite16 addr v) s = exec (writeInstr r (v.extractLsb' 0 8)) s := by
  refine ⟨exec_busRead16_of_bytes (busRead8_dead io dead) (busRead8_live ioNext live), ?_⟩
  rw [exec_busWrite16, busWrite16_of_bytes (busWrite8_dead io dead _), busWrite8_live ioNext live,
    BitVec.setWidth_eq_extractLsb' (by decide), exec_writeInstr]
  rfl

theorem exec_words_high_lane (live : liveReg s.params (addr.setWidth 24) = some r)
    (dead : liveReg s.params (nextAddr (addr.setWidth 24)) = none) (v : Half) :
    exec (.busRead16 addr) s = .next ((duartRead r s).2.withReply (.word ((duartRead r s).1 ++ 0#8))) ∧
      exec (.busWrite16 addr v) s = exec (writeInstr r (v.extractLsb' 8 8)) s := by
  have afterRead : (duartRead r s).2.params = s.params := (duartRead_moves r s).params
  have afterWrite : (duartWrite r (v.extractLsb' 8 8) s).params = s.params := (duartWrite_moves r _ s).params
  refine ⟨exec_busRead16_of_bytes (busRead8_live io live)
    (busRead8_dead (afterRead.symm ▸ ioNext) (afterRead.symm ▸ dead)), ?_⟩
  rw [exec_busWrite16, busWrite16_of_bytes (busWrite8_live io live _),
    busWrite8_dead (afterWrite.symm ▸ ioNext) (afterWrite.symm ▸ dead), exec_writeInstr]
  rfl

end

/-- A register read that completes with a byte, in terms of the chip's own read. -/
theorem exec_readInstr_next {r : BitVec 4} {s t : State} {b : Byte} (h : exec (readInstr r) s = .next t)
    (hb : t.reply = .byte b) : ∃ u, duartRead r s = (b, u) ∧ t = u.withReply (.byte b) := by
  rw [exec_readInstr] at h
  cases h
  cases hb
  exact ⟨_, rfl, rfl⟩

/-- The odd address of register `r` in the `k`-th pattern of the window reaches `r`. -/
theorem liveReg_at {p : Params} {a : BusAddr} {r : BitVec 4} {k : Nat} (evenBase : p.ioBase % 2 = 0)
    (ha : a.toNat = p.ioBase + 0x200 * k + 2 * r.toNat + 1) : liveReg p a = some r := by
  have rlt : r.toNat < 16 := r.isLt
  exact liveReg_of_odd (by omega) (by rw [relAddr_eq]; omega)

/-! ## The obligations -/

/-- Settles O30: an even or inert address is dead, any other live with its register number modulo 16. -/
theorem ioBytesReachTheirRegister : Obligations.IoBytesReachTheirRegister := by
  rintro s addr v a ra rfl io rfl
  rw [← relAddr_eq]
  exact ⟨fun even => exec_bytes_dead io (liveReg_of_even even) v,
    fun odd aliased => exec_bytes_live io (liveReg_of_odd_aliased odd aliased) v,
    fun odd beyond inert => exec_bytes_dead io (liveReg_of_odd_inert odd beyond inert) v⟩

/-- Settles O32: the second byte access does not read the reply of the first. -/
theorem wordAccessIsTwoByteAccesses : Obligations.WordAccessIsTwoByteAccesses := by
  intro s s1 s2 addr addr' hi lo hnext
  have next := setWidth_eq_nextAddr hnext
  constructor
  · intro first hhi second hlo
    obtain ⟨u, hu, rfl⟩ := exec_busRead8_next first hhi
    obtain ⟨w, hw, rfl⟩ := exec_busRead8_next second hlo
    rw [next] at hw
    rw [State.withReply_withReply, exec_busRead16_of_bytes hu (busRead8_before_reply hw), State.withReply_withReply]
  · intro first second
    obtain ⟨u, hu, rfl⟩ := exec_busWrite8_next first
    obtain ⟨w, hw, rfl⟩ := exec_busWrite8_next second
    rw [next] at hw
    rw [exec_busWrite16_of_bytes hu (busWrite8_before_reply hw), State.withReply_withReply]

/-- Settles O34: of the two byte addresses the even one is dead and the odd one reaches the register. -/
theorem ioWordsReachOneRegisterInOneLane : Obligations.IoWordsReachOneRegisterInOneLane := by
  intro s t u r k addr x v hp evenBase inWindow read hx
  obtain ⟨w, hw, rfl⟩ := exec_readInstr_next read hx
  have value : (addr.setWidth 24).toNat = addr.toNat % 0x1000000 := BitVec.toNat_setWidth ..
  have next := toNat_nextAddr (addr.setWidth 24)
  have io := (regionOf_eq_io_iff hp (addr.setWidth 24)).mpr
  have ioNext := (regionOf_eq_io_iff hp (nextAddr (addr.setWidth 24))).mpr
  constructor
  · intro even
    obtain ⟨reads, writes⟩ := exec_words_low_lane (io (by omega)) (ioNext (by omega)) (liveReg_of_even (by omega))
      (liveReg_at (r := r) (k := k) evenBase (by omega)) v
    rw [hw] at reads
    exact ⟨reads, writes.trans⟩
  · intro odd
    obtain ⟨reads, writes⟩ := exec_words_high_lane (io (by omega)) (ioNext (by omega))
      (liveReg_at (r := r) (k := k) evenBase (by omega)) (liveReg_of_even (by omega)) v
    rw [hw] at reads
    exact ⟨reads, writes.trans⟩

end Sys2Proof.Machine
end

section
/-! PROOFS. The level the CPU core sees (R180): only a poll writes `ipl`. -/

namespace Sys2Proof.Machine

theorem Effect.ipl {s t : State} {i : Instr} (h : Effect s i t) (noPoll : i ≠ .icPoll) : t.ipl = s.ipl := by
  cases h with
  | moves h => exact h.ipl
  | configures h => obtain ⟨slots, b, rfl⟩ := h; rfl
  | polled l h => exact absurd rfl noPoll
  | boardReset reads h => exact h.ipl

theorem runAll_cons_next {i : Instr} {rest : List Instr} {s t : State} (h : runAll (i :: rest) s = .next t) :
    ∃ u, exec i s = .next u ∧ runAll rest u = .next t := by
  unfold runAll at h
  split at h
  · next u hu => exact ⟨u, hu, h⟩
  · cases h
  · cases h

theorem runAll_ipl {is : List Instr} {s t : State} (noPoll : ∀ i ∈ is, i ≠ .icPoll) (h : runAll is s = .next t) :
    t.ipl = s.ipl := by
  induction is generalizing s with
  | nil => cases h; rfl
  | cons i rest ih =>
    obtain ⟨notPoll, restNoPoll⟩ := List.forall_mem_cons.mp noPoll
    obtain ⟨u, hu, hrest⟩ := runAll_cons_next h
    exact (ih restNoPoll hrest).trans ((exec_effect hu).ipl notPoll)

/-- Settles O57: the poll records its level, and no later transaction of the step writes it. -/
theorem theLevelIsSampledBeforeTheCpuStep : Obligations.TheLevelIsSampledBeforeTheCpuStep := by
  intro s t cpuStep noPoll h
  obtain ⟨u, poll, cpu⟩ := runAll_cons_next h
  rw [exec_icPoll] at poll
  cases poll
  exact runAll_ipl noPoll cpu

end Sys2Proof.Machine
end

section
/-! PROOFS. The register reads (42_duart_read.md): a read answers 0 in standby and otherwise what its register answers;
which bits the composed bytes have, and which modes start the timer. -/

namespace Sys2Proof.Machine

/-! ## The standby gate (R216) -/

section

variable {s : State} (r : BitVec 4)

theorem exec_readInstr_asleep (asleep : s.duart.standby = true) :
    exec (readInstr r) s = .next (s.withReply (.byte 0x00)) := by
  rw [exec_readInstr, duartRead, gatedRead, if_pos asleep, answerByte]

theorem exec_readInstr_awake (awake : s.duart.standby = false) :
    exec (readInstr r) s = .next ((readReg r s).2.withReply (.byte (readReg r s).1)) := by
  rw [exec_readInstr, duartRead, gatedRead, if_neg (Bool.eq_false_iff.mp awake), answerByte]

end

/-! ## The counter's low byte (R117) -/

theorem ctrLow_eq_extractLsb' (ctr : Half) : ctrLow ctr = ctr.extractLsb' 0 8 :=
  BitVec.setWidth_eq_extractLsb' (by decide)

/-! ## The bits of the input port change register (R113) -/

theorem getLsbD_lowNibble (v : Byte) {k : Nat} (hk : k < 4) : (lowNibble v).getLsbD k = v.getLsbD k := by
  simp [lowNibble, hk]

theorem getLsbD_ipcrByte_low (d : Duart) {k : Nat} (hk : k < 4) : (ipcrByte d).getLsbD k = d.ipValue.getLsbD k := by
  rw [ipcrByte, BitVec.getLsbD_append, if_pos hk, getLsbD_lowNibble _ hk]

theorem getLsbD_ipcrByte_high (d : Duart) {k : Nat} (hk : k < 4) :
    (ipcrByte d).getLsbD (k + 4) = d.ipChanges.getLsbD k := by
  rw [ipcrByte, BitVec.getLsbD_append, if_neg (Nat.not_lt.mpr (Nat.le_add_left 4 k)), Nat.add_sub_cancel,
    getLsbD_lowNibble _ hk]

/-! ## The bits of the interrupt status (R284, R300, R302) -/

theorem getLsbD_flagBit {mask : Byte} {j : Nat} (single : mask = BitVec.twoPow 8 j) (hj : j < 8) (cond : Bool)
    (k : Nat) : (flagBit mask cond).getLsbD k = (cond && decide (k = j)) := by
  cases cond with
  | false => exact BitVec.getLsbD_zero
  | true => simp [flagBit, single, hj, eq_comm]

/-- Bit 0 is the transmitter's enable, bit 1 says that a byte waits. -/
theorem getLsbD_chanPoll (c : Channel) (k : Nat) : (chanPoll c).getLsbD k =
    (c.txEn && decide (k = 0) || decide (c.fifo ≠ []) && decide (k = 1)) := by
  rw [chanPoll, BitVec.getLsbD_or, getLsbD_flagBit (mask := 0x01) (j := 0) rfl (by decide),
    getLsbD_flagBit (mask := 0x02) (j := 1) rfl (by decide)]
  simp only [List.length_pos_iff]

theorem getLsbD_lowMask (k : Nat) : (0x0F : Byte).getLsbD k = decide (k < 4) := by
  rw [show (0x0F : Byte) = (BitVec.allOnes 4).setWidth 8 from rfl, BitVec.getLsbD_setWidth, BitVec.getLsbD_allOnes,
    ← Bool.decide_and]
  exact decide_eq_decide.mpr (by omega)

theorem ipChangeFlag_eq (d : Duart) : ipChangeFlag d =
    decide (∃ k : Fin 4, d.ipChanges.getLsbD k.val = true ∧ d.acr.getLsbD k.val = true) := by
  refine decide_eq_decide.mpr ⟨fun nonzero => ?_, fun ⟨k, changed, selected⟩ zero => ?_⟩
  · by_contra noBit
    refine nonzero (BitVec.eq_of_getLsbD_eq fun i _ => ?_)
    rw [BitVec.getLsbD_and, BitVec.getLsbD_and, getLsbD_lowMask,
      show (0 : Byte).getLsbD i = false from BitVec.getLsbD_zero]
    by_contra both
    simp only [Bool.not_eq_false, Bool.and_eq_true, decide_eq_true_iff] at both
    exact noBit ⟨⟨i, both.2⟩, both.1⟩
  · have bit : (d.ipChanges &&& d.acr &&& 0x0F).getLsbD k = false := by rw [zero]; exact BitVec.getLsbD_zero
    rw [BitVec.getLsbD_and, BitVec.getLsbD_and, getLsbD_lowMask, changed, selected, decide_eq_true k.isLt] at bit
    cases bit

/-- Bits 1..0 are channel A's, bits 5..4 channel B's, bit 3 is the timer's and bit 7 the input port's. -/
theorem getLsbD_isrOf (d : Duart) (ready : Bool) (k : Nat) : (isrOf d ready).getLsbD k =
    ((chanPoll d.chanA).getLsbD k || (decide (k < 8) && !decide (k < 4) && (chanPoll d.chanB).getLsbD (k - 4))
      || (ready && decide (k = 3)) || (ipChangeFlag d && decide (k = 7))) := by
  rw [isrOf, BitVec.getLsbD_or, BitVec.getLsbD_or, BitVec.getLsbD_or, BitVec.getLsbD_shiftLeft,
    getLsbD_flagBit (mask := 0x08) (j := 3) rfl (by decide), getLsbD_flagBit (mask := 0x80) (j := 7) rfl (by decide)]

/-- The eight bits of the status, each by its condition. -/
theorem isrOf_bits (d : Duart) (ready : Bool) :
    (isrOf d ready).getLsbD 0 = d.chanA.txEn ∧ (isrOf d ready).getLsbD 1 = decide (d.chanA.fifo ≠ []) ∧
      (isrOf d ready).getLsbD 2 = false ∧ (isrOf d ready).getLsbD 3 = ready ∧
      (isrOf d ready).getLsbD 4 = d.chanB.txEn ∧ (isrOf d ready).getLsbD 5 = decide (d.chanB.fifo ≠ []) ∧
      (isrOf d ready).getLsbD 6 = false ∧ (isrOf d ready).getLsbD 7 = ipChangeFlag d := by
  simp only [getLsbD_isrOf, getLsbD_chanPoll]
  simp

/-! ## Which modes start the timer (R112, R312, R313) -/

theorem divisor_eq_some_iff {acr : Byte} {d : Nat} : divisor acr = some d ↔
    acr.extractLsb' 4 3 = 0b110#3 ∧ d = 1 ∨ acr.extractLsb' 4 3 = 0b111#3 ∧ d = 16 := by
  unfold divisor
  generalize acr.extractLsb' 4 3 = mode
  rw [← BitVec.toNat_inj, ← BitVec.toNat_inj]
  split
  · next crystal => simp [crystal, eq_comm]
  · next crystal16 => simp [crystal16, eq_comm]
  · next other6 other7 =>
    refine iff_of_false nofun ?_
    rintro (⟨mode6, -⟩ | ⟨mode7, -⟩)
    · exact other6 mode6
    · exact other7 mode7

theorem divisor_eq_none {acr : Byte} (h6 : acr.extractLsb' 4 3 ≠ 0b110#3) (h7 : acr.extractLsb' 4 3 ≠ 0b111#3) :
    divisor acr = none := by
  refine Option.eq_none_iff_forall_ne_some.mpr fun d h => ?_
  rcases divisor_eq_some_iff.mp h with ⟨mode, -⟩ | ⟨mode, -⟩
  · exact h6 mode
  · exact h7 mode

theorem timerStart_of_divisor {p : Params} {acr : Byte} {ctr : Half} {d : Nat} (hd : divisor acr = some d)
    (hctr : ctr ≠ 0) (now : Time) (t : Timer) : timerStart p acr ctr now t =
      { started := true, interval := timerInterval p.intervalQuant d ctr,
        cur := now + timerInterval p.intervalQuant d ctr,
        next := now + timerInterval p.intervalQuant d ctr + timerInterval p.intervalQuant d ctr, ack := false } := by
  rw [timerStart, hd]
  exact if_neg hctr

theorem timerStart_of_stopping {p : Params} {acr : Byte} {ctr : Half} (h : divisor acr = none ∨ ctr = 0) (now : Time)
    (t : Timer) : timerStart p acr ctr now t = { t with started := false } := by
  unfold timerStart
  split
  · rfl
  · next d hd => exact if_pos (h.resolve_left (by simp [hd]))

/-! ## The obligations -/

/-- Settles O8: each row is the `readInstr` of its register, which answers a field of the chip. -/
theorem plainReadsAnswerTheRegister : Obligations.PlainReadsAnswerTheRegister := by
  intro s awake
  have low := exec_readInstr_awake 0x7 awake
  rw [show (readReg 0x7 s).1 = s.duart.ctr.extractLsb' 0 8 from ctrLow_eq_extractLsb' _] at low
  exact ⟨exec_readInstr_awake 0x6 awake, low, exec_readInstr_awake 0xC awake, exec_readInstr_awake 0xD awake,
    exec_readInstr_awake 0xA awake⟩

/-- Settles O12: the byte is `ipcrByte`, whose nibbles are the port's and the changes'. -/
theorem ipcrReadAnswersAndClearsTheChanges : Obligations.IpcrReadAnswersAndClearsTheChanges := fun s awake =>
  ⟨ipcrByte s.duart, exec_readInstr_awake 0x4 awake,
    fun _ hk => ⟨getLsbD_ipcrByte_low s.duart hk, getLsbD_ipcrByte_high s.duart hk⟩⟩

/-- Settles O13: the byte is `isrOf` of the chip and the check's answer, each condition in a bit of its own. -/
theorem isrReadsComposeTheConditions : Obligations.IsrReadsComposeTheConditions := by
  intro s awake
  refine ⟨_, _, rfl, exec_readInstr_awake 0x5 awake, exec_readInstr_awake 0x2 awake, ?_⟩
  rw [← ipChangeFlag_eq]
  exact isrOf_bits s.duart _

/-- Settles O14: the two clauses are the two cases of a timer start. -/
theorem startReadStartsOrStopsTheTimer : Obligations.StartReadStartsOrStopsTheTimer := by
  intro s awake
  have read : exec .duartRStart s = .next ((readStart s).2.withReply (.byte 0x00)) := exec_readInstr_awake 0xE awake
  rw [read, readStart]
  refine ⟨fun d mode hctr => ?_, fun stopping => ?_⟩
  · rw [timerStart_of_divisor (divisor_eq_some_iff.mpr mode) hctr]
  · rw [timerStart_of_stopping (stopping.imp_left fun ⟨h6, h7⟩ => divisor_eq_none h6 h7)]

/-- Settles O22: the standby gate stands before every register. -/
theorem standbyReadsAnswerZero : Obligations.StandbyReadsAnswerZero := fun _ r asleep => exec_readInstr_asleep r asleep

end Sys2Proof.Machine
end

section
/-! PROOFS. The register writes (43_duart_write.md): in standby the wake command clears standby and every other write
is discarded; outside standby a write does what its register does. The pins are the complement of the output port. -/

namespace Sys2Proof.Machine

/-! ## The standby gate (R246, R247) -/

theorem isWake_iff {r : BitVec 4} {v : Byte} :
    isWake r v = true ↔ (r = 0x2 ∨ r = 0xA) ∧ v.extractLsb' 4 4 = 0xD#4 := by
  simp only [isWake, Bool.and_eq_true, Bool.or_eq_true, decide_eq_true_iff]
  exact Iff.rfl

section

variable {s : State} {r : BitVec 4} {v : Byte}

theorem exec_writeInstr_wake (asleep : s.duart.standby = true) (wake : isWake r v = true) :
    exec (writeInstr r v) s = .next ((s.withDuart { s.duart with standby := false }).withReply .nothing) := by
  rw [exec_writeInstr, duartWrite, gatedWrite, if_pos asleep, if_pos wake, answerNothing]

theorem exec_writeInstr_discarded (asleep : s.duart.standby = true) (noWake : ¬ isWake r v = true) :
    exec (writeInstr r v) s = .next (s.withReply .nothing) := by
  rw [exec_writeInstr, duartWrite, gatedWrite, if_pos asleep, if_neg noWake, answerNothing]

theorem exec_writeInstr_awake (r : BitVec 4) (v : Byte) (awake : s.duart.standby = false) :
    exec (writeInstr r v) s = .next ((writeReg r v s).withReply .nothing) := by
  rw [exec_writeInstr, duartWrite, gatedWrite, if_neg (Bool.eq_false_iff.mp awake), answerNothing]

end

/-! ## The wake row as a register write (R104, R127) -/

theorem commandOf_eq_writeInstr (c : ChanId) (v : Byte) : commandOf c v = writeInstr (commandReg c) v := by
  cases c <;> rfl

theorem isWake_wakeByte (c : ChanId) (lo : BitVec 4) : isWake (commandReg c) (0xD0 ||| lo.setWidth 8) = true := by
  refine isWake_iff.mpr ⟨?_, ?_⟩
  · cases c with
    | a => exact .inl rfl
    | b => exact .inr rfl
  · rw [← wakeByte_eq]
    exact BitVec.extractLsb'_append_eq_left

/-! ## The output pins (R41, R249) -/

section

variable (d : Duart) (v : Byte) {k : Nat}

theorem getLsbD_outputPins (hk : k < 8) : (outputPins d).getLsbD k = !d.opr.getLsbD k := by
  rw [outputPins, BitVec.getLsbD_not, decide_eq_true hk, Bool.true_and]

theorem getLsbD_outputPins_setBits (hk : k < 8) :
    (outputPins { d with opr := d.opr ||| v }).getLsbD k = (!v.getLsbD k && (outputPins d).getLsbD k) := by
  rw [getLsbD_outputPins _ hk, getLsbD_outputPins _ hk, BitVec.getLsbD_or, Bool.not_or, Bool.and_comm]

theorem getLsbD_outputPins_clearBits (hk : k < 8) :
    (outputPins { d with opr := d.opr &&& ~~~v }).getLsbD k = (v.getLsbD k || (outputPins d).getLsbD k) := by
  rw [getLsbD_outputPins _ hk, getLsbD_outputPins _ hk, BitVec.getLsbD_and, BitVec.getLsbD_not, decide_eq_true hk,
    Bool.true_and, Bool.not_and, Bool.not_not, Bool.or_comm]

end

/-! ## The obligations -/

/-- Settles O23: the gate's two cases in standby; the wake row is a command register write whose byte wakes. -/
theorem standbyWritesAreDiscardedButTheWake : Obligations.StandbyWritesAreDiscardedButTheWake := by
  intro s r v c lo asleep
  refine ⟨fun wake => exec_writeInstr_wake asleep (isWake_iff.mpr wake),
    fun noWake => exec_writeInstr_discarded asleep (mt isWake_iff.mp noWake), ?_⟩
  rw [wakeIsTheCommandWriteOfItsByte s c lo, commandOf_eq_writeInstr]
  exact exec_writeInstr_wake asleep (isWake_wakeByte c lo)

/-- Settles O16: each row is the `writeInstr` of its register, which stores a field of the chip or nothing. -/
theorem plainWritesStoreTheRegister : Obligations.PlainWritesStoreTheRegister := by
  intro s v awake
  have high := exec_writeInstr_awake 0x6 v awake
  rw [show writeReg 0x6 v s = s.withDuart { s.duart with ctr := v ++ s.duart.ctr.extractLsb' 0 8 } from
    ctrLow_eq_extractLsb' s.duart.ctr ▸ rfl] at high
  exact ⟨exec_writeInstr_awake 0x4 v awake, exec_writeInstr_awake 0x5 v awake, high,
    exec_writeInstr_awake 0x7 v awake, exec_writeInstr_awake 0xC v awake, exec_writeInstr_awake 0xD v awake⟩

/-- Settles O17: a pin is the complement of its bit of `opr`, so a set bit drives it low and a cleared bit high. -/
theorem outputWritesDriveTheSelectedPins : Obligations.OutputWritesDriveTheSelectedPins := fun s v awake =>
  ⟨⟨_, exec_writeInstr_awake 0xE v awake, rfl, fun _ hk => getLsbD_outputPins_setBits s.duart v hk⟩,
    ⟨_, exec_writeInstr_awake 0xF v awake, rfl, fun _ hk => getLsbD_outputPins_clearBits s.duart v hk⟩⟩

end Sys2Proof.Machine
end

section
/-! PROOFS. The channels' registers (44_uart_channel.md): what each row of a channel does outside standby, and how a
command byte's two enable pairs and its command compose (R272). -/

namespace Sys2Proof.Machine

/-! ## The rows of a channel (R104) -/

/-- The relative address of channel `c`'s register, given channel A's: channel B's bank lies 8 above. -/
def channelReg (c : ChanId) (r : BitVec 4) : BitVec 4 :=
  match c with
  | .a => r
  | .b => r + 8

section

variable (c : ChanId) (v : Byte) (s : State)

theorem exec_modeReadOf : exec (modeReadOf c) s = runRead (readMode c) s := by cases c <;> rfl

theorem exec_statusReadOf : exec (statusReadOf c) s = runRead (readStatus c) s := by cases c <;> rfl

theorem exec_holdingReadOf : exec (holdingReadOf c) s = runRead (readHolding c) s := by cases c <;> rfl

theorem exec_modeWriteOf : exec (modeWriteOf c v) s = runWrite (channelReg c 0x0) v (writeMode c v) s := by
  cases c <;> rfl

theorem exec_clockSelectOf :
    exec (clockSelectOf c v) s = runWrite (channelReg c 0x1) v (writeClockSelect c v) s := by
  cases c <;> rfl

theorem exec_holdingWriteOf : exec (holdingWriteOf c v) s = runWrite (channelReg c 0x3) v (writeHolding c v) s := by
  cases c <;> rfl

end

theorem exec_hostReceive (c : ChanId) (b : Byte) (s : State) :
    exec (.hostReceive c b) s = .next ((receiveByte c b s).withReply .nothing) := rfl

/-! ## A row outside standby (R216, R246) -/

section

variable {s : State} (awake : s.duart.standby = false)
include awake

theorem runRead_awake (f : State → Byte × State) :
    runRead f s = .next ((f s).2.withReply (.byte (f s).1)) := by
  rw [runRead, gatedRead, if_neg (Bool.eq_false_iff.mp awake), answerByte]

theorem runWrite_awake (r : BitVec 4) (v : Byte) (f : State → State) :
    runWrite r v f s = .next ((f s).withReply .nothing) := by
  rw [runWrite, gatedWrite, if_neg (Bool.eq_false_iff.mp awake), answerNothing]

theorem exec_holdingReadOf_awake (c : ChanId) :
    exec (holdingReadOf c) s = .next ((readHolding c s).2.withReply (.byte (readHolding c s).1)) :=
  (exec_holdingReadOf c s).trans (runRead_awake awake _)

theorem exec_commandOf_awake (c : ChanId) (v : Byte) : exec (commandOf c v) s =
    .next ((commandEffect c (v.extractLsb' 4 4) (applyEnables c v s)).withReply .nothing) :=
  (exec_commandOf c v s).trans (runWrite_awake awake _ v _)

end

/-! ## The operations behind the rows -/

theorem flagBit_decide (mask : Byte) (p : Prop) [Decidable p] : flagBit mask (decide p) = if p then mask else 0x00 := by
  simp [flagBit]

theorem statusByte_eq (ch : Channel) : statusByte ch =
    (if ch.txEn then 0x0C else 0x00) ||| (if 2 < ch.fifo.length then 0x02 else 0x00)
      ||| (if 0 < ch.fifo.length then 0x01 else 0x00) := by
  rw [statusByte, flagBit_decide, flagBit_decide]
  rfl

section

variable {s : State} {c : ChanId}

theorem readHolding_of_empty (h : (s.chan c).fifo = []) : readHolding c s = (0x00, s) := by
  simp [readHolding, h]

theorem readHolding_of_waiting {b : Byte} {rest : List Byte} (h : (s.chan c).fifo = b :: rest) :
    readHolding c s = (b, s.setChan c { s.chan c with fifo := rest }) := by
  simp [readHolding, h]

theorem writeHolding_of_enabled (h : (s.chan c).txEn = true) (v : Byte) :
    writeHolding c v s = s.withTxTrace (s.txTrace ++ [⟨chanNumber c, v⟩]) := if_pos h

theorem writeHolding_of_disabled (h : (s.chan c).txEn = false) (v : Byte) : writeHolding c v s = s :=
  if_neg (Bool.eq_false_iff.mp h)

theorem receiveByte_of_dropped (h : (s.chan c).rxEn = false ∨ (s.chan c).fifo.length = 255) (b : Byte) :
    receiveByte c b s = s := by
  unfold receiveByte
  split
  · next enabled => exact if_pos (h.resolve_left (by simp [enabled]))
  · rfl

theorem receiveByte_of_room (enabled : (s.chan c).rxEn = true) (room : (s.chan c).fifo.length ≠ 255) (b : Byte) :
    receiveByte c b s = s.setChan c { s.chan c with fifo := (s.chan c).fifo ++ [b] } := by
  rw [receiveByte, if_pos enabled]
  exact if_neg room

end

theorem Channel.storeMode_of_zero {ch : Channel} (h : ch.mrPtr = 0) (v : Byte) :
    ch.storeMode v = { ch with mr0 := v, mrPtr := 1 } := if_pos h

theorem Channel.storeMode_of_one {ch : Channel} (h : ch.mrPtr = 1) (v : Byte) :
    ch.storeMode v = { ch with mr1 := v, mrPtr := 1 } := if_neg (by simp [h])

/-! ## The enable pairs of a command byte (R273 to R275) -/

theorem enablePair_eq (en dis cur : Bool) (e : Env) : enablePair en dis cur e =
    if en && dis then e.drawBool else (if en then true else if dis then false else cur, e) := by
  cases en <;> cases dis <;> rfl

theorem enablePair_of_consistent {en dis : Bool} (h : (en && dis) = false) (cur : Bool) (e : Env) :
    enablePair en dis cur e = (if en then true else if dis then false else cur, e) := by
  rw [enablePair_eq, if_neg (Bool.eq_false_iff.mp h)]

theorem Env.drawBool_of_supplied {e : Env} {b : Bool} {rest : List Draw} (h : e.script = .bool b :: rest) :
    e.drawBool = (b, { e with script := rest }) := by
  simp [Env.drawBool, h]

theorem applyEnables_eq {s : State} {c : ChanId} {v : Byte} {rx tx : Bool × Env} {ch : Channel}
    (hrx : enablePair (v.getLsbD 0) (v.getLsbD 1) (s.chan c).rxEn s.env = rx)
    (htx : enablePair (v.getLsbD 2) (v.getLsbD 3) (s.chan c).txEn rx.2 = tx)
    (hch : ch = { s.chan c with rxEn := rx.1, txEn := tx.1 }) :
    applyEnables c v s = (s.withEnv tx.2).setChan c ch := by
  subst hrx htx hch
  rfl

/-! ## The command of a command byte (R276 to R279), after the enables have made the channel `ch` -/

section

variable (s : State) (c : ChanId) (ch : Channel)

theorem commandEffect_resetPointer : commandEffect c 0x1#4 (s.setChan c ch) = s.setChan c { ch with mrPtr := 0 } := by
  simp [commandEffect]

theorem commandEffect_resetReceiver :
    commandEffect c 0x2#4 (s.setChan c ch) = s.setChan c { ch with rxEn := false, fifo := [] } := by
  simp [commandEffect]

theorem commandEffect_standby (configured : s.params.cmdCEntersStandby = true) :
    commandEffect c 0xC#4 (s.setChan c ch) = s.withDuart { s.duart.setChan c ch with standby := true } :=
  if_pos configured

theorem commandEffect_of_other {code : BitVec 4} (h1 : code ≠ 0x1#4) (h2 : code ≠ 0x2#4)
    (hC : code = 0xC#4 → s.params.cmdCEntersStandby = false) : commandEffect c code s = s := by
  unfold commandEffect
  split
  · next one => exact absurd (BitVec.eq_of_toNat_eq one) h1
  · next two => exact absurd (BitVec.eq_of_toNat_eq two) h2
  · next twelve => exact if_neg (Bool.eq_false_iff.mp (hC (BitVec.eq_of_toNat_eq twelve)))
  · rfl

end

/-- The command write in its four cases, once the enables are known to leave the channel `ch` and the draws `e`. -/
theorem exec_commandOf_cases {s : State} {c : ChanId} {ch : Channel} {v : Byte} {e : Env}
    (awake : s.duart.standby = false) (enables : applyEnables c v s = (s.withEnv e).setChan c ch) :
    (v.extractLsb' 4 4 = 0x1#4 →
      exec (commandOf c v) s = .next (((s.withEnv e).setChan c { ch with mrPtr := 0 }).withReply .nothing)) ∧
    (v.extractLsb' 4 4 = 0x2#4 → exec (commandOf c v) s =
      .next (((s.withEnv e).setChan c { ch with rxEn := false, fifo := [] }).withReply .nothing)) ∧
    (v.extractLsb' 4 4 = 0xC#4 → s.params.cmdCEntersStandby = true → exec (commandOf c v) s =
      .next (((s.withEnv e).withDuart { s.duart.setChan c ch with standby := true }).withReply .nothing)) ∧
    (v.extractLsb' 4 4 ≠ 0x1#4 → v.extractLsb' 4 4 ≠ 0x2#4 →
      (v.extractLsb' 4 4 = 0xC#4 → s.params.cmdCEntersStandby = false) →
      exec (commandOf c v) s = .next (((s.withEnv e).setChan c ch).withReply .nothing)) := by
  rw [exec_commandOf_awake awake c v, enables]
  refine ⟨fun one => ?_, fun two => ?_, fun twelve configured => ?_, fun h1 h2 hC => ?_⟩
  · rw [one, commandEffect_resetPointer]
  · rw [two, commandEffect_resetReceiver]
  · rw [twelve, commandEffect_standby (s.withEnv e) c ch configured]
    rfl
  · rw [commandEffect_of_other ((s.withEnv e).setChan c ch) c h1 h2 hC]

/-! ## The obligations -/

/-- Settles O19: neither pair draws, so the enables are plain values and the draws stand. -/
theorem commandWriteAppliesEnablesThenCommand : Obligations.CommandWriteAppliesEnablesThenCommand := by
  intro s c v ch awake rxConsistent txConsistent hch
  have enables : applyEnables c v s = (s.withEnv s.env).setChan c ch :=
    applyEnables_eq (enablePair_of_consistent rxConsistent _ _) (enablePair_of_consistent txConsistent _ _) hch
  exact exec_commandOf_cases awake enables

/-- Settles O9: the three masks of `statusByte`. -/
theorem statusReadComposesTheFlags : Obligations.StatusReadComposesTheFlags := by
  intro s c awake
  rw [exec_statusReadOf, runRead_awake awake, readStatus, statusByte_eq]

/-- Settles O10: `readMode` through the open gate. -/
theorem modeReadAdvancesThePointer : Obligations.ModeReadAdvancesThePointer :=
  fun s c awake => (exec_modeReadOf c s).trans (runRead_awake awake (readMode c))

/-- Settles O11, by the two cases of the FIFO. -/
theorem holdingReadPopsTheOldestByte : Obligations.HoldingReadPopsTheOldestByte := by
  intro s c awake
  rw [exec_holdingReadOf_awake awake c]
  refine ⟨fun empty => ?_, fun b rest waiting => ?_⟩
  · rw [readHolding_of_empty empty]
  · rw [readHolding_of_waiting waiting]

/-- Settles O18, by the two values of the pointer. -/
theorem modeAndClockSelectWritesStoreTheirByte : Obligations.ModeAndClockSelectWritesStoreTheirByte := by
  intro s c v awake
  rw [exec_modeWriteOf, runWrite_awake awake, exec_clockSelectOf, runWrite_awake awake, writeMode]
  refine ⟨fun zero => ?_, fun one => ?_, rfl⟩
  · rw [Channel.storeMode_of_zero zero]
  · rw [Channel.storeMode_of_one one]

/-- Settles O20: a pair with both bits set is a draw, the receiver's before the transmitter's. -/
theorem bothEnableBitsLeaveTheFlagToADraw : Obligations.BothEnableBitsLeaveTheFlagToADraw := by
  refine ⟨fun s c v rx tx ch awake _ hrx htx hch => ?_, fun _ _ _ supplied => Env.drawBool_of_supplied supplied⟩
  exact exec_commandOf_cases awake
    (applyEnables_eq ((enablePair_eq ..).trans hrx.symm) ((enablePair_eq ..).trans htx.symm) hch)

/-- Settles O21, by the transmitter's enable. -/
theorem holdingWriteTransmitsWhenEnabled : Obligations.HoldingWriteTransmitsWhenEnabled := by
  intro s c v awake
  rw [exec_holdingWriteOf, runWrite_awake awake]
  refine ⟨fun enabled => ?_, fun disabled => ?_⟩
  · rw [writeHolding_of_enabled enabled]
    rfl
  · rw [writeHolding_of_disabled disabled]

/-- Settles O44, by the two cases of `receive`. -/
theorem receiveAppendsWhereEnabledAndNotFull : Obligations.ReceiveAppendsWhereEnabledAndNotFull := by
  intro s c b
  rw [exec_hostReceive]
  refine ⟨fun dropped => ?_, fun enabled room => ?_⟩
  · rw [receiveByte_of_dropped dropped]
  · rw [receiveByte_of_room enabled room]

end Sys2Proof.Machine
end

section
/-! PROOFS. What becomes of the receive FIFOs (R285): runs of injected bytes and of holding reads, what each channel
keeps under the other's accesses, and which rows can shorten a FIFO. -/

namespace Sys2Proof.Machine

/-! ## Runs of one row -/

theorem runAll_cons_of_next {i : Instr} {s u : State} (h : exec i s = .next u) (rest : List Instr) :
    runAll (i :: rest) s = runAll rest u := by
  simp [runAll, h]

theorem answersOf_cons_of_next {i : Instr} {s u : State} (h : exec i s = .next u) (rest : List Instr) :
    answersOf (i :: rest) s = u.reply :: answersOf rest u := by
  simp [answersOf, h]

theorem receiveByte_of_enabled {s : State} {c : ChanId} (enabled : (s.chan c).rxEn = true)
    (fits : (s.chan c).fifo.length ≤ 255) (b : Byte) : (receiveByte c b s).chan c =
      { s.chan c with fifo := ((s.chan c).fifo ++ [b]).take 255 } := by
  by_cases full : (s.chan c).fifo.length = 255
  · rw [receiveByte_of_dropped (.inr full), List.take_left' full]
  · have room : ((s.chan c).fifo ++ [b]).length ≤ 255 := by
      rw [List.length_append, List.length_singleton]
      omega
    rw [receiveByte_of_room enabled full, State.chan_setChan_same, List.take_of_length_le room]

/-- Cutting off after `n` elements before more are appended makes no difference to cutting off afterwards. -/
theorem take_append_of_take {α : Type} (n : Nat) (l m : List α) : (l.take n ++ m).take n = (l ++ m).take n := by
  rw [List.take_append, List.take_append, List.take_take, Nat.min_self, List.length_take]
  rcases Nat.le_total n l.length with h | h
  · rw [Nat.min_eq_left h, Nat.sub_self, Nat.sub_eq_zero_of_le h]
  · rw [Nat.min_eq_right h]

theorem receiveAll_of_enabled {c : ChanId} (bytes : List Byte) {s : State} (enabled : (s.chan c).rxEn = true)
    (fits : (s.chan c).fifo.length ≤ 255) : ∃ t, receiveAll c bytes s = .next t ∧
      (t.chan c).fifo = ((s.chan c).fifo ++ bytes).take 255 ∧ (t.chan c).rxEn = true := by
  induction bytes generalizing s with
  | nil => exact ⟨s, rfl, by rw [List.append_nil, List.take_of_length_le fits], enabled⟩
  | cons b bytes ih =>
    have received : (((receiveByte c b s).withReply .nothing).chan c) =
        { s.chan c with fifo := ((s.chan c).fifo ++ [b]).take 255 } := receiveByte_of_enabled enabled fits b
    obtain ⟨t, run, fifo, enabledAfter⟩ := ih (s := (receiveByte c b s).withReply .nothing)
      (by rw [received]; exact enabled) (by rw [received]; exact List.length_take_le 255 _)
    refine ⟨t, (runAll_cons_of_next (exec_hostReceive c b s) _).trans run, ?_, enabledAfter⟩
    rw [fifo, received, take_append_of_take, List.append_assoc, List.singleton_append]

theorem holdingReads_drain {c : ChanId} (bytes : List Byte) {s : State} (awake : s.duart.standby = false)
    (holds : (s.chan c).fifo = bytes) :
    answersOf (List.replicate (bytes.length + 1) (holdingReadOf c)) s = bytes.map .byte ++ [.byte 0x00] ∧
      ∃ t, runAll (List.replicate (bytes.length + 1) (holdingReadOf c)) s = .next t ∧ (t.chan c).fifo = [] := by
  induction bytes generalizing s with
  | nil =>
    have read := exec_holdingReadOf_awake awake c
    rw [readHolding_of_empty holds] at read
    rw [List.replicate_succ, answersOf_cons_of_next read, runAll_cons_of_next read]
    exact ⟨rfl, _, rfl, holds⟩
  | cons b rest ih =>
    have read := exec_holdingReadOf_awake awake c
    rw [readHolding_of_waiting holds] at read
    obtain ⟨answers, drained⟩ := ih (s := (s.setChan c { s.chan c with fifo := rest }).withReply (.byte b))
      ((Duart.setChan_standby ..).trans awake) (congrArg Channel.fifo (State.chan_setChan_same ..))
    rw [List.replicate_succ, answersOf_cons_of_next read, runAll_cons_of_next read]
    exact ⟨congrArg (Reply.byte b :: ·) answers, drained⟩

/-! ## A row changes its own channel alone (R260) -/

theorem State.chan_setChan_other {c c' : ChanId} (h : c' ≠ c) (s : State) (ch : Channel) :
    (s.setChan c ch).chan c' = s.chan c' := Duart.chan_setChan_other _ _ h

theorem commandEffect_chan_other {c c' : ChanId} (h : c' ≠ c) (code : BitVec 4) (s : State) :
    (commandEffect c code s).chan c' = s.chan c' := by
  unfold commandEffect
  split
  · exact State.chan_setChan_other h s _
  · exact State.chan_setChan_other h s _
  · split <;> rfl
  · rfl

theorem writeCommand_chan_other {c c' : ChanId} (h : c' ≠ c) (v : Byte) (s : State) :
    (writeCommand c v s).chan c' = s.chan c' :=
  (commandEffect_chan_other h _ _).trans (State.chan_setChan_other h s _)

theorem readHolding_chan_other {c c' : ChanId} (h : c' ≠ c) (s : State) :
    (readHolding c s).2.chan c' = s.chan c' := by
  unfold readHolding
  split
  · rfl
  · exact State.chan_setChan_other h s _

theorem writeHolding_chan (c c' : ChanId) (v : Byte) (s : State) : (writeHolding c v s).chan c' = s.chan c' := by
  unfold writeHolding
  split <;> rfl

theorem receiveByte_chan_other {c c' : ChanId} (h : c' ≠ c) (b : Byte) (s : State) :
    (receiveByte c b s).chan c' = s.chan c' := by
  unfold receiveByte
  split
  · split
    · rfl
    · exact State.chan_setChan_other h s _
  · rfl

/-! ## The rows through the standby gate, which keeps every channel -/

theorem runRead_chan {f : State → Byte × State} {s t : State} (h : runRead f s = .next t) (c : ChanId) :
    t.chan c = s.chan c ∨ t.chan c = (f s).2.chan c := by
  cases h
  unfold gatedRead
  split
  · exact .inl rfl
  · exact .inr rfl

theorem runWrite_chan {r : BitVec 4} {v : Byte} {f : State → State} {s t : State} (h : runWrite r v f s = .next t)
    (c : ChanId) : t.chan c = s.chan c ∨ t.chan c = (f s).chan c := by
  cases h
  unfold gatedWrite
  split
  · split <;> exact .inl rfl
  · exact .inr rfl

theorem runRead_chan_eq {f : State → Byte × State} {s t : State} {c : ChanId} (h : runRead f s = .next t)
    (keeps : (f s).2.chan c = s.chan c) : t.chan c = s.chan c :=
  (runRead_chan h c).elim id fun e => e.trans keeps

theorem runWrite_chan_eq {r : BitVec 4} {v : Byte} {f : State → State} {s t : State} {c : ChanId}
    (h : runWrite r v f s = .next t) (keeps : (f s).chan c = s.chan c) : t.chan c = s.chan c :=
  (runWrite_chan h c).elim id fun e => e.trans keeps

/-! ## The rows that can shorten no FIFO -/

/-- The FIFO of channel `c` in `t` is what it was in `s` with some bytes added at the end. -/
def ExtendsFifo (c : ChanId) (s t : State) : Prop := ∃ new, (t.chan c).fifo = (s.chan c).fifo ++ new

theorem ExtendsFifo.of_chan_eq {c : ChanId} {s t : State} (h : t.chan c = s.chan c) : ExtendsFifo c s t :=
  ⟨[], by rw [h, List.append_nil]⟩

/-- An update of any channel that only adds to its FIFO. -/
theorem ExtendsFifo.setChan {c c' : ChanId} {s : State} {ch : Channel} (new : List Byte)
    (h : ch.fifo = (s.chan c').fifo ++ new) : ExtendsFifo c s (s.setChan c' ch) := by
  by_cases same : c = c'
  · subst same
    exact ⟨new, by rw [State.chan_setChan_same, h]⟩
  · exact .of_chan_eq (State.chan_setChan_other same s ch)

theorem ExtendsFifo.setChan_sameFifo {c c' : ChanId} {s : State} {ch : Channel} (h : ch.fifo = (s.chan c').fifo) :
    ExtendsFifo c s (s.setChan c' ch) := .setChan [] (by rw [h, List.append_nil])

theorem ExtendsFifo.of_runRead {c : ChanId} {f : State → Byte × State} {s t : State} (h : runRead f s = .next t)
    (hf : ExtendsFifo c s (f s).2) : ExtendsFifo c s t := by
  rcases runRead_chan h c with asleep | awake
  · exact .of_chan_eq asleep
  · rwa [ExtendsFifo, awake]

theorem ExtendsFifo.of_runWrite {c : ChanId} {r : BitVec 4} {v : Byte} {f : State → State} {s t : State}
    (h : runWrite r v f s = .next t) (hf : ExtendsFifo c s (f s)) : ExtendsFifo c s t := by
  rcases runWrite_chan h c with asleep | awake
  · exact .of_chan_eq asleep
  · rwa [ExtendsFifo, awake]

theorem receiveByte_extendsFifo (c c' : ChanId) (b : Byte) (s : State) : ExtendsFifo c s (receiveByte c' b s) := by
  unfold receiveByte
  split
  · split
    · exact .of_chan_eq rfl
    · exact .setChan [b] rfl
  · exact .of_chan_eq rfl

theorem Configures.chan {s t : State} (h : Configures s t) (c : ChanId) : t.chan c = s.chan c := by
  obtain ⟨slots, b, rfl⟩ := h
  rfl

theorem readVector_chan (level : Int) (s : State) (c : ChanId) : (readVector level s).2.chan c = s.chan c := by
  unfold readVector
  split
  · rfl
  · split
    · next src _ => cases src <;> rfl
    · rfl

theorem pollInterrupt_chan (s : State) (c : ChanId) : (pollInterrupt s).2.chan c = s.chan c := by
  obtain ⟨e, tm, polled⟩ := afterPolls_movesTimerAndDraws s.slots (enabledSlots s.slots slotOrder) s
  rw [pollInterrupt, pollSlots_eq, polled]
  rfl

/-! ## The obligations -/

/-- Settles O45, by induction on the bytes. -/
theorem manyReceivesKeepTheFirst255InOrder : Obligations.ManyReceivesKeepTheFirst255InOrder :=
  fun _ _ bytes enabled fits => receiveAll_of_enabled bytes enabled fits

/-- Settles O46, by induction on the FIFO. -/
theorem holdingReadsDrainTheFifoInOrder : Obligations.HoldingReadsDrainTheFifoInOrder :=
  fun _ _ awake => holdingReads_drain _ awake rfl

/-- Settles O55: through the gate or not, a row of one channel is an update of that channel. -/
theorem channelsShareNoState : Obligations.ChannelsShareNoState := by
  intro s t c c' i distinct acts h
  have other : c' ≠ c := distinct.symm
  rcases acts with rfl | rfl | rfl | ⟨v, rfl | rfl | rfl | rfl⟩ | ⟨b, rfl⟩
  · exact runRead_chan_eq ((exec_modeReadOf c s).symm.trans h) (State.chan_setChan_other other s _)
  · exact runRead_chan_eq ((exec_statusReadOf c s).symm.trans h) rfl
  · exact runRead_chan_eq ((exec_holdingReadOf c s).symm.trans h) (readHolding_chan_other other s)
  · exact runWrite_chan_eq ((exec_modeWriteOf c v s).symm.trans h) (State.chan_setChan_other other s _)
  · exact runWrite_chan_eq ((exec_clockSelectOf c v s).symm.trans h) (State.chan_setChan_other other s _)
  · exact runWrite_chan_eq ((exec_commandOf c v s).symm.trans h) (writeCommand_chan_other other v s)
  · exact runWrite_chan_eq ((exec_holdingWriteOf c v s).symm.trans h) (writeHolding_chan c c' v s)
  · cases h
    exact receiveByte_chan_other other b s

/-- Settles O56, row by row: a row of the other channel keeps this one, and only `receive` adds a byte. -/
theorem bytesLeaveAFifoOnlyByItsOwnReads : Obligations.BytesLeaveAFifoOnlyByItsOwnReads := by
  intro s t c i h noRead noCommand noWake noRead8 noWrite8 noRead16 noWrite16 noIcReset noBoardReset
  show ExtendsFifo c s t
  cases i with
  | duartRMra | duartRMrb => exact .of_runRead h (.setChan_sameFifo rfl)
  | duartRRhra =>
    have other : c ≠ .a := fun e => noRead (e ▸ rfl)
    exact .of_chan_eq (runRead_chan_eq h (readHolding_chan_other other s))
  | duartRRhrb =>
    have other : c ≠ .b := fun e => noRead (e ▸ rfl)
    exact .of_chan_eq (runRead_chan_eq h (readHolding_chan_other other s))
  | duartRSra | duartRSrb | duartRMisr | duartRIpcr | duartRIsr | duartRCtu | duartRCtl | duartRNoneA | duartRIvr
  | duartRIp | duartRStart | duartRStop => exact .of_chan_eq (runRead_chan_eq h rfl)
  | duartWMra v | duartWMrb v => exact .of_runWrite h (.setChan_sameFifo (Channel.storeMode_fifo _ v))
  | duartWCsra v | duartWCsrb v => exact .of_runWrite h (.setChan_sameFifo rfl)
  | duartWCra v =>
    have other : c ≠ .a := fun e => noCommand v (e ▸ rfl)
    exact .of_chan_eq (runWrite_chan_eq h (writeCommand_chan_other other v s))
  | duartWCrb v =>
    have other : c ≠ .b := fun e => noCommand v (e ▸ rfl)
    exact .of_chan_eq (runWrite_chan_eq h (writeCommand_chan_other other v s))
  | duartWWake c' lo =>
    have other : c ≠ c' := fun e => noWake lo (e ▸ rfl)
    exact .of_chan_eq (runWrite_chan_eq h (writeCommand_chan_other other _ s))
  | duartWThra v | duartWThrb v => exact .of_chan_eq (runWrite_chan_eq h (writeHolding_chan _ c v s))
  | duartWAcr v | duartWImr v | duartWCtu v | duartWCtl v | duartWIvr v | duartWOpcr v | duartWSopr v
  | duartWRopr v => exact .of_chan_eq (runWrite_chan_eq h rfl)
  | busRead8 a => exact absurd rfl (noRead8 a)
  | busWrite8 a v => exact absurd rfl (noWrite8 a v)
  | busRead16 a => exact absurd rfl (noRead16 a)
  | busWrite16 a v => exact absurd rfl (noWrite16 a v)
  | busIackVector level => cases h; exact .of_chan_eq (readVector_chan level.toNat s c)
  | icReadVector level => cases h; exact .of_chan_eq (readVector_chan level s c)
  | icSourceAdd src level => cases h; exact .of_chan_eq ((addSource_configures src level s).chan c)
  | icSourceRemoveLevel _ | icSourceRemoveSrc _ => cases h; exact .of_chan_eq ((removeAt_configures _ s).chan c)
  | icSourceEnableLevel _ | icSourceEnableSrc _ | icSourceDisableLevel _ | icSourceDisableSrc _ =>
    cases h; exact .of_chan_eq ((setEnabledAt_configures _ _ s).chan c)
  | icPoll => cases h; exact .of_chan_eq (pollInterrupt_chan s c)
  | icReset => exact absurd rfl noIcReset
  | boardReset => exact absurd rfl noBoardReset
  | hostReceive c' b => cases h; exact receiveByte_extendsFifo c c' b s
  | hostSetInputPort v => cases h; exact .of_chan_eq rfl

end Sys2Proof.Machine
end

section
/-! PROOFS. The counter/timer (R313 to R319): its interval, the four cases of its check, the one-slot poll of the DUART
that evaluates it, and the transactions that leave it alone. -/

namespace Sys2Proof.Machine

/-! ## One enabled source on the board (R143, R304) -/

section

variable {s u : State} {i : Fin 7} {src : SourceId} {asserts : Bool}

theorem enabledSlots_eq_singleton {slots : Vector (Option Slot) 7} (bound : slots.get i = some ⟨src, true⟩)
    (others : ∀ (j : Fin 7) (sl : Slot), j ≠ i → slots.get j = some sl → sl.enabled = false) :
    enabledSlots slots slotOrder = [i] := by
  have distinct : (enabledSlots slots slotOrder).Nodup := (slotOrder_pairwise.imp ne_of_lt).filter _
  refine List.perm_singleton.mp ((List.perm_ext_iff_of_nodup distinct (List.nodup_singleton i)).mpr fun j => ?_)
  simp only [mem_enabledSlots, mem_slotOrder, true_and, List.mem_singleton]
  constructor
  · rintro ⟨src', enabled⟩
    by_contra other
    exact Bool.noConfusion (others j _ other enabled)
  · rintro rfl
    exact ⟨src, bound⟩

/-- The scan of one enabled slot is one poll of its source: the slot's level where it asserts, 0 where it does not. -/
theorem exec_icPoll_of_onlyEnabled (only : enabledSlots s.slots slotOrder = [i])
    (bound : s.slots.get i = some ⟨src, true⟩) (poll : pollSource src s = (asserts, u)) :
    exec .icPoll s = .next ((u.withIpl (if asserts then levelOfIndex i else 0)).withReply
      (.level (if asserts then levelOfIndex i else 0))) := by
  rw [exec_icPoll, pollInterrupt, pollSlots_eq, only]
  simp only [levelAfterPolls, afterPolls_cons, afterPolls_nil, pollAt_of_bound bound, poll]

end

/-- Settles O41: the scan is one poll of the DUART, which asserts where its masked ISR is not 0. -/
theorem pollOfTheDuartFollowsItsMaskedIsr : Obligations.PollOfTheDuartFollowsItsMaskedIsr := by
  intro s i bound others
  have only := enabledSlots_eq_singleton bound others
  refine ⟨fun asleep => exec_icPoll_of_onlyEnabled only bound (pollSource_duart_standby asleep),
    fun awake t m read answer => ?_⟩
  rw [exec_icPoll_of_onlyEnabled only bound (pollSource_duart_of_maskedIsrRead awake read answer)]
  simp only [decide_eq_true_iff]
  rfl

/-! ## The interval (R314) -/

theorem timerInterval_exact (d : Nat) (ctr : Half) :
    timerInterval .exact d ctr = 5 * (d : Rat) * (ctr.toNat : Rat) / 9216 := by
  rw [timerInterval, quantise, timerFreq, Config.crystalHz, div_div_eq_mul_div, div_div_eq_mul_div]
  ring

/-- The interval grows with the divisor and the reload value, from 1 and 1 to 16 and 0xFFFF. -/
theorem timerInterval_exact_bounds {d : Nat} {ctr : Half} (atLeast : 1 ≤ d) (atMost : d ≤ 16) (reload : ctr ≠ 0) :
    5 / 9216 ≤ timerInterval .exact d ctr ∧ timerInterval .exact d ctr ≤ 109225 / 192 := by
  have positive : 1 ≤ ctr.toNat := Nat.one_le_iff_ne_zero.mpr fun zero => reload (BitVec.eq_of_toNat_eq zero)
  have low : (1 : Rat) ≤ d * ctr.toNat := by exact_mod_cast Nat.mul_le_mul atLeast positive
  have high : (d * ctr.toNat : Rat) ≤ 16 * 65535 := by exact_mod_cast Nat.mul_le_mul atMost (Nat.le_of_lt_succ ctr.isLt)
  rw [timerInterval_exact]
  constructor <;> linarith

/-- Settles O49, by the interval's formula and its bounds at the least and the greatest divisor and reload value. -/
theorem timerIntervalFormula : Obligations.TimerIntervalFormula := by
  intro d ctr divisors reload
  exact ⟨timerInterval_exact d ctr, timerInterval_exact_bounds (by omega) (by omega) reload⟩

/-! ## The check in its four cases (R315) -/

section

variable {p : Bool} {t : Timer} {now : Time}

theorem timerCheck_of_stopped (stopped : t.started = false) : timerCheck p now t = (false, t) := by
  simp [timerCheck, stopped]

theorem timerCheck_of_past (running : t.started = true) (past : t.next ≤ now) : timerCheck p now t =
    (true, { t with cur := t.next, next := now + t.interval, ack := if p then false else t.ack }) := by
  simp [timerCheck, running, past]

theorem timerCheck_of_inside (running : t.started = true) (reached : t.cur ≤ now) (ahead : now < t.next) :
    timerCheck p now t = (!t.ack, t) := by
  simp [timerCheck, running, reached, ahead.not_ge]

theorem timerCheck_of_early (running : t.started = true) (early : now < t.cur) (ahead : now < t.next) :
    timerCheck p now t = (false, t) := by
  simp [timerCheck, running, early.not_ge, ahead.not_ge]

/-- From the first deadline on, an unacknowledged period is ready, before its next boundary and after. -/
theorem timerCheck_true_of_unacknowledged (running : t.started = true) (reached : t.cur ≤ now)
    (unacknowledged : t.ack = false) : (timerCheck p now t).1 = true := by
  rcases le_or_gt t.next now with past | ahead
  · rw [timerCheck_of_past running past]
  · rw [timerCheck_of_inside running reached ahead, unacknowledged, Bool.not_false]

/-- Before the next boundary an acknowledged period is silent, and the check changes nothing. -/
theorem timerCheck_of_acknowledged (running : t.started = true) (acknowledged : t.ack = true) (ahead : now < t.next) :
    timerCheck p now t = (false, t) := by
  rcases le_or_gt t.cur now with reached | early
  · rw [timerCheck_of_inside running reached ahead, acknowledged, Bool.not_true]
  · exact timerCheck_of_early running early ahead

/-- What makes a check true, under `TIMER_ACK_ON_ADVANCE`, stands in the timer it leaves: running, past its first
deadline and unacknowledged. -/
theorem timerCheck_leaves_unacknowledged (ready : (timerCheck true now t).1 = true) :
    (timerCheck true now t).2.started = true ∧ (timerCheck true now t).2.cur ≤ now ∧
      (timerCheck true now t).2.ack = false := by
  rcases timerCheck_cases true now t with ⟨-, check⟩ | ⟨running, past, check⟩ | ⟨running, -, reached, check⟩ |
    ⟨-, -, -, check⟩ <;> rw [check] at ready ⊢
  · cases ready
  · exact ⟨running, past, rfl⟩
  · exact ⟨running, reached, by simpa using ready⟩
  · cases ready

end

/-! ## What keeps the timer (R317, R319) -/

section

variable {s t : State} (c : ChanId) (v : Byte)

theorem State.setChan_timer (s : State) (ch : Channel) : (s.setChan c ch).duart.timer = s.duart.timer :=
  Duart.setChan_timer s.duart c ch

theorem readHolding_timer (s : State) : (readHolding c s).2.duart.timer = s.duart.timer := by
  unfold readHolding
  split
  · rfl
  · exact State.setChan_timer c s _

theorem commandEffect_timer (code : BitVec 4) (s : State) :
    (commandEffect c code s).duart.timer = s.duart.timer := by
  unfold commandEffect
  split
  · exact State.setChan_timer c s _
  · exact State.setChan_timer c s _
  · split <;> rfl
  · rfl

theorem writeCommand_timer (s : State) : (writeCommand c v s).duart.timer = s.duart.timer :=
  (commandEffect_timer c _ _).trans (State.setChan_timer c s _)

theorem writeHolding_duart (s : State) : (writeHolding c v s).duart = s.duart := by
  unfold writeHolding
  split <;> rfl

theorem receiveByte_timer (s : State) : (receiveByte c v s).duart.timer = s.duart.timer := by
  unfold receiveByte
  split
  · split
    · rfl
    · exact State.setChan_timer c s _
  · rfl

/-- No register write moves the timer: not the mode's, `acr`, nor the reload value's, `ctr`. -/
theorem writeReg_timer (r : BitVec 4) (s : State) : (writeReg r v s).duart.timer = s.duart.timer := by
  unfold writeReg
  split
  case h_3 | h_11 => exact writeCommand_timer _ v s
  case h_4 | h_12 => exact congrArg Duart.timer (writeHolding_duart _ v s)
  all_goals rfl

theorem gatedRead_timer {f : State → Byte × State} (keeps : (f s).2.duart.timer = s.duart.timer) :
    (gatedRead f s).2.duart.timer = s.duart.timer := by
  unfold gatedRead
  split
  · rfl
  · exact keeps

theorem gatedWrite_timer {f : State → State} (r : BitVec 4) (keeps : (f s).duart.timer = s.duart.timer) :
    (gatedWrite r v f s).duart.timer = s.duart.timer := by
  unfold gatedWrite
  split
  · split <;> rfl
  · exact keeps

theorem runRead_timer {f : State → Byte × State} (h : runRead f s = .next t)
    (keeps : (f s).2.duart.timer = s.duart.timer) : t.duart.timer = s.duart.timer := by
  cases h
  exact gatedRead_timer keeps

theorem runWrite_timer {f : State → State} {r : BitVec 4} {v : Byte} (h : runWrite r v f s = .next t)
    (keeps : (f s).duart.timer = s.duart.timer) : t.duart.timer = s.duart.timer := by
  cases h
  exact gatedWrite_timer v r keeps

theorem ioWrite_timer (a : BusAddr) (s : State) : (ioWrite a v s).duart.timer = s.duart.timer := by
  unfold ioWrite
  split
  · next r _ => exact gatedWrite_timer v r (writeReg_timer v r s)
  · rfl

theorem busWrite8_timer {a : BusAddr} {v : Byte} (h : busWrite8 a v s = .ok t) :
    t.duart.timer = s.duart.timer := by
  rcases busWrite8_cases h with rfl | ⟨-, -, rfl⟩ | ⟨-, rfl⟩
  · rfl
  · rfl
  · exact ioWrite_timer v a s

theorem busWrite16_timer {a : BusAddr} {w : Half} (h : busWrite16 a w s = .ok t) :
    t.duart.timer = s.duart.timer := by
  obtain ⟨s1, high, low⟩ := busWrite16_cases h
  exact (busWrite8_timer low).trans (busWrite8_timer high)

theorem answerWrite_timer {r : Except Refusal State} (h : answerWrite r = .next t)
    (keeps : ∀ u, r = .ok u → u.duart.timer = s.duart.timer) : t.duart.timer = s.duart.timer := by
  obtain ⟨u, written, rfl⟩ := answerWrite_next h
  exact keeps u written

theorem Configures.duart (h : Configures s t) : t.duart = s.duart := by
  obtain ⟨slots, b, rfl⟩ := h
  rfl

theorem readVector_duart (level : Int) (s : State) : (readVector level s).2.duart = s.duart := by
  unfold readVector
  split
  · rfl
  · split
    · next src _ => cases src <;> rfl
    · rfl

end

/-- Settles O52, row by row: what a row writes, at its register or through the bus, is not the timer. -/
theorem onlyItsOwnTransactionsMoveTheTimer : Obligations.OnlyItsOwnTransactionsMoveTheTimer := by
  intro s t i h noMove
  cases i with
  | duartRStart | duartRStop | duartRIsr | duartRMisr | icPoll | busRead8 _ | busRead16 _ | icReset | boardReset =>
    cases noMove
  | duartRMra | duartRMrb | duartRSra | duartRSrb | duartRIpcr | duartRCtu | duartRCtl | duartRNoneA | duartRIvr
  | duartRIp => exact runRead_timer h rfl
  | duartRRhra | duartRRhrb => exact runRead_timer h (readHolding_timer _ s)
  | duartWCra v | duartWCrb v => exact runWrite_timer h (writeCommand_timer _ v s)
  | duartWWake c lo => exact runWrite_timer h (writeCommand_timer c _ s)
  | duartWThra v | duartWThrb v => exact runWrite_timer h (congrArg Duart.timer (writeHolding_duart _ v s))
  | duartWMra v | duartWMrb v | duartWCsra v | duartWCsrb v | duartWAcr v | duartWImr v | duartWCtu v | duartWCtl v
  | duartWIvr v | duartWOpcr v | duartWSopr v | duartWRopr v => exact runWrite_timer h rfl
  | busWrite8 a v => exact answerWrite_timer h fun _ => busWrite8_timer
  | busWrite16 a w => exact answerWrite_timer h fun _ => busWrite16_timer
  | busIackVector l => cases h; exact congrArg Duart.timer (readVector_duart l.toNat s)
  | icReadVector level => cases h; exact congrArg Duart.timer (readVector_duart level s)
  | icSourceAdd src level => cases h; exact congrArg Duart.timer (addSource_configures src level s).duart
  | icSourceRemoveLevel _ | icSourceRemoveSrc _ =>
    cases h; exact congrArg Duart.timer (removeAt_configures _ s).duart
  | icSourceEnableLevel _ | icSourceEnableSrc _ | icSourceDisableLevel _ | icSourceDisableSrc _ =>
    cases h; exact congrArg Duart.timer (setEnabledAt_configures _ _ s).duart
  | hostReceive c b => cases h; exact receiveByte_timer c b s
  | hostSetInputPort v => cases h; rfl

/-! ## The stop read, the input port and the check: the obligations -/

/-- Settles O15: the row is the `readInstr` of register 0xF, whose read stops the timer. -/
theorem stopReadAcknowledgesThePeriod : Obligations.StopReadAcknowledgesThePeriod :=
  fun _ awake => exec_readInstr_awake 0xF awake

theorem exec_hostSetInputPort (v : Byte) (s : State) :
    exec (.hostSetInputPort v) s = .next ((s.withDuart (s.duart.setInput v)).withReply .nothing) := rfl

/-- Settles O47: the row is `setInputPort` on the chip, in standby too. -/
theorem setInputPortReplacesTheChangeBits : Obligations.SetInputPortReplacesTheChangeBits := by
  intro s v
  rw [exec_hostSetInputPort, Duart.setInput]

/-- Settles O60: each clause is one case of the check. -/
theorem timerCheckFollowsItsWindow : Obligations.TimerCheckFollowsItsWindow := fun _ _ _ =>
  ⟨timerCheck_of_stopped, fun running =>
    ⟨timerCheck_of_past running, timerCheck_of_inside running, timerCheck_of_early running⟩⟩

/-- Settles O50: what a true check leaves is unacknowledged and past its first deadline, so every later check of it is
true. The timer's own invariant is not needed. -/
theorem counterReadyIsLevelLikeUntilAcknowledged : Obligations.CounterReadyIsLevelLikeUntilAcknowledged := by
  intro t now later _ ready notEarlier
  obtain ⟨running, reached, unacknowledged⟩ := timerCheck_leaves_unacknowledged ready
  exact timerCheck_true_of_unacknowledged running (reached.trans notEarlier) unacknowledged

/-- Settles O51: an acknowledge keeps the deadlines, so the check is silent before `next` and advances from it on. -/
theorem acknowledgeSilencesUntilTheNextBoundary : Obligations.AcknowledgeSilencesUntilTheNextBoundary := by
  intro p t now running
  refine ⟨fun ahead => timerCheck_of_acknowledged running rfl ahead, fun past => ?_⟩
  have advance : timerCheck p now (timerStop t) = _ := timerCheck_of_past running past
  rw [advance]
  exact ⟨rfl, rfl, rfl⟩

end Sys2Proof.Machine
end

section
/-! PROOFS. Every transaction completes (R340, R170). Only the bus calls and the board reset can be refused: a bus call
is not with the overlay off, and a reset sequence of the CPU core is not where it only reads bytes that both buffers
have. -/

namespace Sys2Proof.Machine

/-! ## Bus accesses with the overlay off (R72, R170) -/

section

variable {s : State} (noOverlay : s.overlay = false) (a : BusAddr)
include noOverlay

theorem busRead8_completes : ∃ x, busRead8 a s = .ok x := by
  cases hr : regionOf s.params a with
  | low => exact ⟨_, busRead8_low hr noOverlay⟩
  | void => exact ⟨_, busRead8_void hr⟩
  | romWin => exact ⟨_, busRead8_romWin hr noOverlay⟩
  | io => exact ⟨_, busRead8_io hr⟩

theorem busWrite8_completes (v : Byte) : ∃ t, busWrite8 a v s = .ok t := by
  cases hr : regionOf s.params a with
  | low => exact ⟨_, busWrite8_low hr noOverlay⟩
  | void => exact ⟨_, busWrite8_void hr⟩
  | romWin => exact ⟨_, busWrite8_romWin hr noOverlay⟩
  | io => exact ⟨_, busWrite8_io hr⟩

/-- The first half leaves the overlay off, so the second completes as well. -/
theorem busRead16_completes : ∃ x, busRead16 a s = .ok x := by
  obtain ⟨hi, firstHalf⟩ := busRead8_completes noOverlay a
  have stillOff : hi.2.overlay = false := (busRead8_moves firstHalf).overlay.trans noOverlay
  obtain ⟨lo, secondHalf⟩ := busRead8_completes stillOff (nextAddr a)
  exact ⟨_, busRead16_of_bytes firstHalf secondHalf⟩

theorem busWrite16_completes (w : Half) : ∃ t, busWrite16 a w s = .ok t := by
  obtain ⟨u, firstHalf⟩ := busWrite8_completes noOverlay a (w.extractLsb' 8 8)
  have stillOff : u.overlay = false := (busWrite8_moves firstHalf).overlay.trans noOverlay
  rw [busWrite16_of_bytes firstHalf]
  exact busWrite8_completes stillOff (nextAddr a) (w.setWidth 8)

end

theorem answerRead_completes {α : Type} (f : α → Reply) {r : Except Refusal (α × State)} (h : ∃ x, r = .ok x) :
    ∃ t, answerRead f r = .next t := by
  obtain ⟨x, rfl⟩ := h
  exact ⟨_, answerRead_ok f x⟩

theorem answerWrite_completes {r : Except Refusal State} (h : ∃ u, r = .ok u) : ∃ t, answerWrite r = .next t := by
  obtain ⟨u, rfl⟩ := h
  exact ⟨_, answerWrite_ok u⟩

/-! ## The CPU core's reset sequence under the overlay (R83, R384) -/

theorem runBusCall_read8 {addr : CpuAddr} {s t : State} {b : Byte} (h : busRead8 (mask24 addr) s = .ok (b, t)) :
    runBusCall (.read8 addr) s = .ok (.byte b, t) := by
  simp only [runBusCall, h]

theorem runBusCall_read16 {addr : CpuAddr} {s t : State} {w : Half} (h : busRead16 (mask24 addr) s = .ok (w, t)) :
    runBusCall (.read16 addr) s = .ok (.word w, t) := by
  simp only [runBusCall, h]

section

variable {s : State} (overlaid : s.overlay = true)
include overlaid

/-- Under the overlay a LOW address that both buffers have is a byte of the ROM, and its read changes nothing. -/
theorem busRead8_low_overlay_inside {a : BusAddr} (h : a.toNat < min s.params.romSize 0x100000) :
    busRead8 a s = .ok (memRead s.rom a.toNat, s) := by
  have inLow : regionOf s.params a = .low := (regionOf_eq_low_iff s.params a).mpr (by omega)
  rw [busRead8_low_overlay inLow overlaid, overlayRead_inside (by omega)]

theorem busRead16_low_overlay_inside {a : BusAddr} (h : a.toNat + 1 < min s.params.romSize 0x100000) :
    busRead16 a s = .ok (memRead s.rom a.toNat ++ memRead s.rom (a.toNat + 1), s) := by
  have second : (nextAddr a).toNat = a.toNat + 1 := toNat_nextAddr_of_lt (by omega)
  rw [busRead16_of_bytes (busRead8_low_overlay_inside overlaid (by omega))
    (busRead8_low_overlay_inside overlaid (by rwa [second])), second]

theorem runBusCall_of_readsBelow {c : BusCall} (h : readsBelow (min s.params.romSize 0x100000) c) :
    ∃ r, runBusCall c s = .ok (r, s) := by
  cases c with
  | read8 addr => exact ⟨_, runBusCall_read8 (busRead8_low_overlay_inside overlaid h)⟩
  | read16 addr => exact ⟨_, runBusCall_read16 (busRead16_low_overlay_inside overlaid h)⟩
  | write8 _ _ | write16 _ _ => exact h.elim

theorem runBusCalls_of_readsBelow {cs : List BusCall}
    (h : ∀ c ∈ cs, readsBelow (min s.params.romSize 0x100000) c) : ∃ rs, runBusCalls cs s = .ok (rs, s) := by
  induction cs with
  | nil => exact ⟨[], rfl⟩
  | cons c rest ih =>
    obtain ⟨r, first⟩ := runBusCall_of_readsBelow overlaid (h c List.mem_cons_self)
    obtain ⟨rs, others⟩ := ih fun d hd => h d (List.mem_cons_of_mem c hd)
    exact ⟨r :: rs, by simp only [runBusCalls, first, others]⟩

end

theorem exec_boardReset_of_calls {s u : State} {reads : List Reply}
    (h : runBusCalls s.params.cpuResetSeq ((controllerReset s).withOverlay true) = .ok (reads, u)) :
    exec .boardReset s = .next (answerNothing ((u.withOverlay false).withResetReads reads)) := by
  change execBoardReset s = _
  rw [execBoardReset, h]

theorem exec_boardReset_completes {s : State}
    (h : ∀ c ∈ s.params.cpuResetSeq, readsBelow (min s.params.romSize 0x100000) c) :
    ∃ t, exec .boardReset s = .next t := by
  have sameParams : ((controllerReset s).withOverlay true).params = s.params := (resetSlots_moves slotOrder s).params
  rw [← sameParams] at h
  obtain ⟨reads, calls⟩ := runBusCalls_of_readsBelow rfl h
  rw [sameParams] at calls
  exact ⟨_, exec_boardReset_of_calls calls⟩

/-! ## The obligation -/

/-- Settles O53, by the rows: the bus calls and the board reset complete by the lemmas above; the meaning of every other
row is a `next` outright. -/
theorem everyTransactionCompletes : Obligations.EveryTransactionCompletes := by
  intro s i noOverlay resetReads
  cases i with
  | busRead8 addr => exact answerRead_completes .byte (busRead8_completes noOverlay _)
  | busRead16 addr => exact answerRead_completes .word (busRead16_completes noOverlay _)
  | busWrite8 addr v => exact answerWrite_completes (busWrite8_completes noOverlay _ v)
  | busWrite16 addr w => exact answerWrite_completes (busWrite16_completes noOverlay _ w)
  | boardReset => exact exec_boardReset_completes resetReads
  | duartRMra | duartRSra | duartRMisr | duartRRhra | duartRIpcr | duartRIsr | duartRCtu | duartRCtl | duartRMrb
  | duartRSrb | duartRNoneA | duartRRhrb | duartRIvr | duartRIp | duartRStart | duartRStop => exact ⟨_, rfl⟩
  | duartWMra _ | duartWCsra _ | duartWCra _ | duartWThra _ | duartWAcr _ | duartWImr _ | duartWCtu _ | duartWCtl _
  | duartWMrb _ | duartWCsrb _ | duartWCrb _ | duartWThrb _ | duartWIvr _ | duartWOpcr _ | duartWSopr _ | duartWRopr _
  | duartWWake _ _ => exact ⟨_, rfl⟩
  | icSourceAdd _ _ | icSourceRemoveLevel _ | icSourceRemoveSrc _ | icPoll | icSourceEnableLevel _
  | icSourceEnableSrc _ | icSourceDisableLevel _ | icSourceDisableSrc _ | icReadVector _ | icReset
  | busIackVector _ => exact ⟨_, rfl⟩
  | hostReceive _ _ | hostSetInputPort _ => exact ⟨_, rfl⟩

end Sys2Proof.Machine
end

section
/-! PROOFS. The board reset and power-on (R380, R384, R385). Under the boot overlay a word read inside both buffers is a
word of the ROM and changes nothing, so the reset sequence leaves what the controller's reset leaves; and that reset
does not change the chip of construction. -/

namespace Sys2Proof.Machine

/-! ## The reset sequence's word reads under the overlay (R83, R384) -/

theorem runBusCalls_cons_of_ok {c : BusCall} {s t u : State} {r : Reply} {rs : List Reply}
    {rest : List BusCall} (first : runBusCall c s = .ok (r, t)) (others : runBusCalls rest t = .ok (rs, u)) :
    runBusCalls (c :: rest) s = .ok (r :: rs, u) := by
  simp only [runBusCalls, first, others]

theorem runBusCalls_cons_of_error {c : BusCall} {s : State} {e : Refusal} (first : runBusCall c s = .error e)
    (rest : List BusCall) : runBusCalls (c :: rest) s = .error e := by
  simp only [runBusCalls, first]

/-- The ROM word that a word read of a LOW address reaches through the overlay. -/
def romWordAt (rom : Memory) (addr : CpuAddr) : Reply :=
  .word (memRead rom (mask24 addr).toNat ++ memRead rom ((mask24 addr).toNat + 1))

theorem runBusCalls_wordReads {s : State} (overlaid : s.overlay = true) {addrs : List CpuAddr}
    (inside : ∀ a ∈ addrs, (mask24 a).toNat + 1 < min s.params.romSize 0x100000) :
    runBusCalls (addrs.map .read16) s = .ok (addrs.map (romWordAt s.rom), s) := by
  induction addrs with
  | nil => rfl
  | cons a rest ih =>
    obtain ⟨first, others⟩ := List.forall_mem_cons.mp inside
    exact runBusCalls_cons_of_ok (runBusCall_read16 (busRead16_low_overlay_inside overlaid first)) (ih others)

/-- What the 68000's reset sequence reads: ROM bytes 0..7 as four words. -/
def romVectors (rom : Memory) : List Reply :=
  [.word (memRead rom 0 ++ memRead rom 1), .word (memRead rom 2 ++ memRead rom 3),
   .word (memRead rom 4 ++ memRead rom 5), .word (memRead rom 6 ++ memRead rom 7)]

theorem runBusCalls_vectorReads {s : State} (overlaid : s.overlay = true) (eightBytes : 8 ≤ s.params.romSize) :
    runBusCalls [.read16 0, .read16 2, .read16 4, .read16 6] s = .ok (romVectors s.rom, s) := by
  have firstEight : ∀ a ∈ ([0, 2, 4, 6] : List CpuAddr), (mask24 a).toNat + 1 < 8 := by simp [mask24]
  exact runBusCalls_wordReads overlaid fun a ha => by have := firstEight a ha; omega

/-! ## The board reset (R380) -/

theorem exec_boardReset_of_refused {s : State} {e : Refusal}
    (h : runBusCalls s.params.cpuResetSeq ((controllerReset s).withOverlay true) = .error e) :
    exec .boardReset s = .refused e := by
  change execBoardReset s = _
  rw [execBoardReset, h]

/-- With the 68000's sequence a board reset is the controller's reset and a record of the words read. -/
theorem exec_boardReset_vectorReads {s : State}
    (sequence : s.params.cpuResetSeq = [.read16 0, .read16 2, .read16 4, .read16 6])
    (eightBytes : 8 ≤ s.params.romSize) : exec .boardReset s =
      .next ((((controllerReset s).withOverlay false).withResetReads (romVectors s.rom)).withReply .nothing) := by
  have moves : Moves s (controllerReset s) := resetSlots_moves slotOrder s
  have reads := runBusCalls_vectorReads (s := (controllerReset s).withOverlay true) rfl
    (by rwa [State.withOverlay_params, moves.params])
  rw [State.withOverlay_rom, moves.rom, ← sequence] at reads
  rw [exec_boardReset_of_calls reads, State.withOverlay_withOverlay]
  rfl

/-- A sequence that begins with a byte write into a buffer under the overlay refuses the board reset (R83). -/
theorem exec_boardReset_firstWrite {s : State} {addr : CpuAddr} {v : Byte} {rest : List BusCall}
    (sequence : s.params.cpuResetSeq = .write8 addr v :: rest)
    (inBuffer : regionOf s.params (mask24 addr) = .low ∨ regionOf s.params (mask24 addr) = .romWin) :
    exec .boardReset s = .refused .writeDuringOverlay := by
  have sameParams : ((controllerReset s).withOverlay true).params = s.params := (resetSlots_moves slotOrder s).params
  rw [← sameParams] at inBuffer
  have write : runBusCall (.write8 addr v) ((controllerReset s).withOverlay true) = .error .writeDuringOverlay := by
    simp only [runBusCall, busWrite8_overlay inBuffer (State.withOverlay_overlay _ _)]
  exact exec_boardReset_of_refused (by rw [sequence, runBusCalls_cons_of_error write])

/-- Settles O48, by the word reads of the sequence under the overlay, and by the refusal of its first write. -/
theorem boardResetResetsAndReadsTheRomVectors : Obligations.BoardResetResetsAndReadsTheRomVectors := by
  intro s
  refine ⟨fun t sequence eightBytes reset => ?_, fun _ _ _ => exec_boardReset_firstWrite⟩
  rw [exec_icReset] at reset
  cases reset
  exact exec_boardReset_vectorReads sequence eightBytes

/-! ## Power-on (R385) -/

theorem powerOn_of_refused {p : Params} {ram rom : Backing} {e : Refusal} (h : construct p ram rom = .refused e) :
    powerOn p ram rom = .refused e := by
  rw [powerOn, h]

theorem powerOn_of_constructed {p : Params} {ram rom : Backing} {s : State} (h : construct p ram rom = .next s) :
    powerOn p ram rom = exec .boardReset s := by
  rw [powerOn, h]
  rfl

/-- The chip of construction is already in its reset state (R37 to R50, R382). -/
theorem Duart.initial_resetIf (p : Params) (bound : Bool) : (Duart.initial p).resetIf bound = Duart.initial p := by
  cases bound <;> rfl

/-- The controller's reset of a new board only records the resets of its extra sources. -/
theorem controllerReset_constructed (p : Params) (m r : Memory) :
    ∃ trace, controllerReset (constructed p m r) = (constructed p m r).withResetTrace trace := by
  have chip : (constructed p m r).duart = Duart.initial p := rfl
  rw [controllerReset, resetSlots_eq, chip, Duart.initial_resetIf]
  exact ⟨_, rfl⟩

/-! ## The first poll (R143, R304) -/

/-- With every interrupt masked the DUART does not assert, in standby or out of it. -/
theorem pollSource_duart_of_allMasked {s : State} (masked : s.duart.imr = 0x00) :
    ∃ u, pollSource .duart s = (false, u) := by
  cases standby : s.duart.standby with
  | true => exact ⟨s, pollSource_duart_standby standby⟩
  | false =>
    have noCondition : (readMaskedIsr s).1 = 0x00 := by simp [readMaskedIsr, masked]
    exact ⟨_, by rw [pollSource_duart_awake standby, noCondition]; rfl⟩

/-- Without extra sources the DUART's slot is the only enabled one. -/
theorem enabledSlots_constructedSlots {p : Params} (legal : p.valid = true) (noExtras : p.extraSources = []) :
    ∃ i : Fin 7, (constructedSlots p).get i = some ⟨.duart, true⟩ ∧
      enabledSlots (constructedSlots p) slotOrder = [i] := by
  obtain ⟨-, -, -, ⟨atLeast, atMost⟩, -⟩ := p.valid_iff.mp legal
  obtain ⟨i, level⟩ : ∃ i : Fin 7, i.val + 1 = p.duartLevel :=
    ⟨⟨p.duartLevel - 1, by omega⟩, Nat.sub_add_cancel atLeast⟩
  have bound := constructedSlots_get_duart legal level
  refine ⟨i, bound, enabledSlots_eq_singleton bound fun j sl other filled => ?_⟩
  have empty : (constructedSlots p).get j = none :=
    constructedSlots_get_other (fun same => other (Fin.ext (by omega))) (by simp [noExtras])
  rw [empty] at filled
  cases filled

theorem exec_icPoll_of_constructedSlots {p : Params} {t : State} (legal : p.valid = true)
    (noExtras : p.extraSources = []) (slots : t.slots = constructedSlots p) (masked : t.duart.imr = 0x00) :
    ∃ u, exec .icPoll t = .next u ∧ u.reply = .level 0 := by
  obtain ⟨i, bound, only⟩ := enabledSlots_constructedSlots legal noExtras
  obtain ⟨u, silent⟩ := pollSource_duart_of_allMasked masked
  rw [← slots] at bound only
  exact ⟨_, exec_icPoll_of_onlyEnabled only bound silent, rfl⟩

/-- Settles O59: power-on is the board reset of a new board, which keeps what construction gave. -/
theorem powerOnConstructsThenResetsTheBoard : Obligations.PowerOnConstructsThenResetsTheBoard := by
  refine ⟨fun _ _ _ _ => powerOn_of_refused, fun p ram rom s built => ?_⟩
  refine ⟨powerOn_of_constructed built, fun sequence eightBytes => ?_⟩
  obtain ⟨m, r, hm, hr, legal, ramWf, ramBelow, romWf, romBelow, rfl⟩ := construct_next built
  cases hm
  cases hr
  have reset : exec .boardReset (constructed p ram rom) = _ := exec_boardReset_vectorReads sequence eightBytes
  have good := exec_inv reset (constructed_inv legal ramWf ramBelow romWf romBelow)
  obtain ⟨trace, unchanged⟩ := controllerReset_constructed p ram rom
  rw [unchanged] at reset good
  exact ⟨_, (powerOn_of_constructed built).trans reset, good, rfl, rfl, rfl, rfl, rfl, rfl, rfl,
    fun noExtras => exec_icPoll_of_constructedSlots legal noExtras rfl rfl⟩

end Sys2Proof.Machine
end
